-- ==== Sys2Proof/Word.lean ====
section
/-! DEFINITION. The word types of the core and their plainest readings (00_scope.md R6, R8). -/

namespace Sys2Proof

/-- A register, data word, buffer, flag, immediate or pc value: XLEN = 32 bits (R6, R8). `+`, `-`, `*` on it
wrap modulo 2^32 and `&&&`, `|||`, `^^^` are bitwise, as R8 asks. -/
abbrev Word := BitVec 32

/-- One slot of the instruction store, in the 64-bit packing of R75. -/
abbrev Packed := BitVec 64

/-- A register index, R0 to R15 (R6 NREG = 16, R20). -/
abbrev Reg := Fin 16

/-- `sint(v)` of R8: the two's complement reading. -/
def sint (v : Word) : Int := v.toInt

/-- IW of R6: one instruction takes 4 PC units. -/
def instrWidth : Word := 4

end Sys2Proof
end

