-- ==== Sys2Proof/Syntax.lean ====
section
/-! DEFINITION. The instructions: one constructor per row of the opcode table (30_encoding.md R72), each with exactly the
fields its row uses, and the loader's untyped record (R70, R71). -/

namespace Sys2Proof

/-- An instruction of the closed set R72. A field that a row of R72 does not use has no place here, so each term is one
well-formed record (R74); `Instr.toRecord` writes out the NONE and 0 of the unused fields. -/
inductive Instr where
  | add (rd rs1 rs2 : Reg)
  | sub (rd rs1 rs2 : Reg)
  | mul (rd rs1 rs2 : Reg)
  | and (rd rs1 rs2 : Reg)
  | or (rd rs1 rs2 : Reg)
  | xor (rd rs1 rs2 : Reg)
  | movc (rd : Reg) (imm : Word)
  /-- `LOAD,R<rd>,R<rs1>,#<imm>`: rs1 is the base. -/
  | load (rd rs1 : Reg) (imm : Word)
  /-- `STORE,R<rs1>,R<rs2>,#<imm>`: rs1 is the data, rs2 the base. -/
  | store (rs1 rs2 : Reg) (imm : Word)
  | bz (imm : Word)
  | bnz (imm : Word)
  | jump (rs1 : Reg) (imm : Word)
  | halt
  | nop
  /-- The placeholder EMPTY, a bubble with a code of its own (R76, R259). -/
  | empty
deriving DecidableEq, Repr

/-- The opcode field of a loader's record: the 15 opcodes of R72 and the source's "invalid" (R78, code 15). -/
inductive Opcode where
  | add | sub | mul | and | or | xor | movc | load | store | bz | bnz | jump | halt | nop | empty | invalid
deriving DecidableEq, Repr

/-- The record the external loader hands over, before any check: `{opcode, rd, rs1, rs2, imm}` (R70, R71). NONE is
`none`. -/
structure Record where
  op : Opcode
  rd : Option Nat
  rs1 : Option Nat
  rs2 : Option Nat
  imm : Int
deriving DecidableEq, Repr

end Sys2Proof
end

