-- ==== Sys2Proof/WellFormed.lean ====
section
/-! DEFINITION. When a loader's record is well formed (30_encoding.md R74), and the passage between records and
instructions. -/

namespace Sys2Proof

/-- Does the opcode use the field rd (R72)? -/
def Opcode.usesRd : Opcode → Bool
  | .add | .sub | .mul | .and | .or | .xor | .movc | .load => true
  | .store | .bz | .bnz | .jump | .halt | .nop | .empty | .invalid => false

/-- Does the opcode use the field rs1 (R72, R73)? -/
def Opcode.usesRs1 : Opcode → Bool
  | .add | .sub | .mul | .and | .or | .xor | .load | .store | .jump => true
  | .movc | .bz | .bnz | .halt | .nop | .empty | .invalid => false

/-- Does the opcode use the field rs2 (R72, R73)? -/
def Opcode.usesRs2 : Opcode → Bool
  | .add | .sub | .mul | .and | .or | .xor | .store => true
  | .movc | .load | .bz | .bnz | .jump | .halt | .nop | .empty | .invalid => false

/-- Does the opcode use the field imm (R72)? -/
def Opcode.usesImm : Opcode → Bool
  | .movc | .load | .store | .bz | .bnz | .jump => true
  | .add | .sub | .mul | .and | .or | .xor | .halt | .nop | .empty | .invalid => false

/-- R74 (b) for one register field: an index 0 to 15 where the opcode uses it, NONE where it does not. -/
def fieldWf (used : Bool) (field : Option Nat) : Bool :=
  match field with
  | some r => used && decide (r < 16)
  | none => !used

/-- R74 (c): the immediate fits in 32 bits as a signed value; R71: it is 0 where unused. -/
def immWf (used : Bool) (imm : Int) : Bool :=
  decide (-(2 ^ 31) ≤ imm) && decide (imm < 2 ^ 31) && (used || decide (imm = 0))

/-- R74: the record is well formed. -/
def Record.wf (r : Record) : Bool :=
  r.op != .invalid && fieldWf r.op.usesRd r.rd && fieldWf r.op.usesRs1 r.rs1 && fieldWf r.op.usesRs2 r.rs2
    && immWf r.op.usesImm r.imm

/-- The record of an instruction: NONE and 0 in the fields its row of R72 does not use. -/
def Instr.toRecord : Instr → Record
  | .add rd rs1 rs2 => ⟨.add, some rd.val, some rs1.val, some rs2.val, 0⟩
  | .sub rd rs1 rs2 => ⟨.sub, some rd.val, some rs1.val, some rs2.val, 0⟩
  | .mul rd rs1 rs2 => ⟨.mul, some rd.val, some rs1.val, some rs2.val, 0⟩
  | .and rd rs1 rs2 => ⟨.and, some rd.val, some rs1.val, some rs2.val, 0⟩
  | .or rd rs1 rs2 => ⟨.or, some rd.val, some rs1.val, some rs2.val, 0⟩
  | .xor rd rs1 rs2 => ⟨.xor, some rd.val, some rs1.val, some rs2.val, 0⟩
  | .movc rd imm => ⟨.movc, some rd.val, none, none, sint imm⟩
  | .load rd rs1 imm => ⟨.load, some rd.val, some rs1.val, none, sint imm⟩
  | .store rs1 rs2 imm => ⟨.store, none, some rs1.val, some rs2.val, sint imm⟩
  | .bz imm => ⟨.bz, none, none, none, sint imm⟩
  | .bnz imm => ⟨.bnz, none, none, none, sint imm⟩
  | .jump rs1 imm => ⟨.jump, none, some rs1.val, none, sint imm⟩
  | .halt => ⟨.halt, none, none, none, 0⟩
  | .nop => ⟨.nop, none, none, none, 0⟩
  | .empty => ⟨.empty, none, none, none, 0⟩

/-- The register index in a field; only ever asked of a field that `Record.wf` has found to hold one. -/
def fieldReg (field : Option Nat) : Reg := Fin.ofNat 16 (field.getD 0)

/-- The instruction of a record, or nothing where the record is not well formed (R74: "no simulation runs"). -/
def Record.toInstr (r : Record) : Option Instr :=
  if r.wf then
    match r.op with
    | .add => some (.add (fieldReg r.rd) (fieldReg r.rs1) (fieldReg r.rs2))
    | .sub => some (.sub (fieldReg r.rd) (fieldReg r.rs1) (fieldReg r.rs2))
    | .mul => some (.mul (fieldReg r.rd) (fieldReg r.rs1) (fieldReg r.rs2))
    | .and => some (.and (fieldReg r.rd) (fieldReg r.rs1) (fieldReg r.rs2))
    | .or => some (.or (fieldReg r.rd) (fieldReg r.rs1) (fieldReg r.rs2))
    | .xor => some (.xor (fieldReg r.rd) (fieldReg r.rs1) (fieldReg r.rs2))
    | .movc => some (.movc (fieldReg r.rd) (BitVec.ofInt 32 r.imm))
    | .load => some (.load (fieldReg r.rd) (fieldReg r.rs1) (BitVec.ofInt 32 r.imm))
    | .store => some (.store (fieldReg r.rs1) (fieldReg r.rs2) (BitVec.ofInt 32 r.imm))
    | .bz => some (.bz (BitVec.ofInt 32 r.imm))
    | .bnz => some (.bnz (BitVec.ofInt 32 r.imm))
    | .jump => some (.jump (fieldReg r.rs1) (BitVec.ofInt 32 r.imm))
    | .halt => some .halt
    | .nop => some .nop
    | .empty => some .empty
    | .invalid => none
  else none

end Sys2Proof
end

