-- ==== Sys2Proof/Decode.lean ====
section
/-! DEFINITION. The decoder and the encoder of the 64-bit packing (30_encoding.md R75, R76). -/

namespace Sys2Proof

/-- Why a slot does not decode. -/
inductive DecodeError where
  /-- Code 15, the source's "invalid" opcode: the only reserved encoding (R78). -/
  | reserved
deriving DecidableEq, Repr

/-- The opcode code, bits 63:60 (R75). -/
def opcField (w : Packed) : BitVec 4 := w.extractLsb' 60 4

/-- rd, bits 59:56 (R75). -/
def rdField (w : Packed) : Reg := (w.extractLsb' 56 4).toFin

/-- rs1, bits 55:52 (R75). -/
def rs1Field (w : Packed) : Reg := (w.extractLsb' 52 4).toFin

/-- rs2, bits 51:48 (R75). -/
def rs2Field (w : Packed) : Reg := (w.extractLsb' 48 4).toFin

/-- imm, bits 31:0, two's complement, neither scaled nor shifted (R75, R77). -/
def immField (w : Packed) : Word := w.extractLsb' 0 32

/-- The decoder: the opcode from bits 63:60 alone, by the codes of R76; unused fields and bits 47:32 are ignored (R75). -/
def decode (w : Packed) : Except DecodeError Instr :=
  match (opcField w).toNat with
  | 0 => .ok (.add (rdField w) (rs1Field w) (rs2Field w))
  | 1 => .ok (.sub (rdField w) (rs1Field w) (rs2Field w))
  | 2 => .ok (.mul (rdField w) (rs1Field w) (rs2Field w))
  | 3 => .ok (.and (rdField w) (rs1Field w) (rs2Field w))
  | 4 => .ok (.or (rdField w) (rs1Field w) (rs2Field w))
  | 5 => .ok (.xor (rdField w) (rs1Field w) (rs2Field w))
  | 6 => .ok (.movc (rdField w) (immField w))
  | 7 => .ok (.load (rdField w) (rs1Field w) (immField w))
  | 8 => .ok (.store (rs1Field w) (rs2Field w) (immField w))
  | 9 => .ok (.bz (immField w))
  | 10 => .ok (.bnz (immField w))
  | 11 => .ok (.jump (rs1Field w) (immField w))
  | 12 => .ok .halt
  | 13 => .ok .nop
  | 14 => .ok .empty
  | _ => .error .reserved

/-- The five fields of R75 put together, bits 47:32 zero. -/
def pack (opc rd rs1 rs2 : BitVec 4) (imm : Word) : Packed :=
  opc ++ rd ++ rs1 ++ rs2 ++ (0 : BitVec 16) ++ imm

/-- A register index as a field of the packing. -/
def regBits (r : Reg) : BitVec 4 := BitVec.ofFin r

/-- The encoder: the code of R76, 0 in every unused field and in bits 47:32 (R75). -/
def encode : Instr → Packed
  | .add rd rs1 rs2 => pack 0 (regBits rd) (regBits rs1) (regBits rs2) 0
  | .sub rd rs1 rs2 => pack 1 (regBits rd) (regBits rs1) (regBits rs2) 0
  | .mul rd rs1 rs2 => pack 2 (regBits rd) (regBits rs1) (regBits rs2) 0
  | .and rd rs1 rs2 => pack 3 (regBits rd) (regBits rs1) (regBits rs2) 0
  | .or rd rs1 rs2 => pack 4 (regBits rd) (regBits rs1) (regBits rs2) 0
  | .xor rd rs1 rs2 => pack 5 (regBits rd) (regBits rs1) (regBits rs2) 0
  | .movc rd imm => pack 6 (regBits rd) 0 0 imm
  | .load rd rs1 imm => pack 7 (regBits rd) (regBits rs1) 0 imm
  | .store rs1 rs2 imm => pack 8 0 (regBits rs1) (regBits rs2) imm
  | .bz imm => pack 9 0 0 0 imm
  | .bnz imm => pack 10 0 0 0 imm
  | .jump rs1 imm => pack 11 0 (regBits rs1) 0 imm
  | .halt => pack 12 0 0 0 0
  | .nop => pack 13 0 0 0 0
  | .empty => pack 14 0 0 0 0

/-- The 64-bit slot of a table word: its low `nbits` bits, the bits above them zero. Every row of the opcode table has 64
bits (R75), and a slot is one whole word, so no byte order enters (20_memory.md R54). -/
def slotOfTableWord (nbits w : Nat) : Packed := BitVec.ofNat 64 (w % 2 ^ nbits)

/-- What the decoder reads from a table word, `none` where it refuses. -/
def decodeTableWord (nbits w : Nat) : Option Instr :=
  match decode (slotOfTableWord nbits w) with
  | .ok i => some i
  | .error _ => none

end Sys2Proof
end

