-- ==== Sys2Proof/Config.lean ====
section
/-! DEFINITION. The configuration inputs of the core (00_scope.md R6, R7 (3)) and the one free value. -/

namespace Sys2Proof

/-- The inputs that are constant for a run (R6, R7). N, the number of instructions, is the length of the
instruction store and has no field. -/
structure Config where
  /-- FWD: operand forwarding enabled (R6, D40). -/
  fwd : Bool
  /-- BASE: the pc of instruction index 0 (R6, D3). -/
  base : Word
  /-- DMEM_WORDS: the number of data-memory words (R6, D4). -/
  dmemWords : Nat
  /-- CYCLE_LIMIT: the optional bound on cycles (R6, R101). -/
  cycleLimit : Option Nat
deriving DecidableEq, Repr

/-- The configuration `State.reset` takes. DESIGN CHOICE, PRESUMED for BASE (log 2): the spec leaves all four open.
BASE = 4000 is the base of the spec's test vectors, DMEM_WORDS = 4096 is the size its vector M7 names. Unsafe for a
claim that rests on one of these numbers. -/
def Config.standard : Config :=
  { fwd := false, base := 4000, dmemWords := 4096, cycleLimit := none }

/-- What R6 and D3 ask of the parameters for a store of `n` instructions. -/
def Config.wf (c : Config) (n : Nat) : Bool :=
  decide (100 ≤ c.dmemWords) && decide (c.base.toNat + 4 * n < 2 ^ 32)

/-- The value drawn at the `n`-th draw: nothing constrains it (45_control.md R250 `draw()`, D23; 10_state.md R32).
It has no body, so no proof can see it (log 5). -/
opaque Config.freeValue : Nat → Word

end Sys2Proof
end

