-- ==== Sys2Proof/Machine/State.lean ====
section
/-! DEFINITION. The state of the core (10_state.md), the reasons a run stops, and the state after reset
(70_reset_and_hazards.md R330). -/

namespace Sys2Proof.Machine

/-- The five stages; also which stage's turn it is within a cycle (00_scope.md R9, 40_pipeline_driver_fetch.md R100). -/
inductive Stage where
  | fetch | decode | execute | memory | writeback
deriving DecidableEq, Repr

/-- What a latch holds: an instruction, or the internal record FETCHFAULT that a read of the store at a bad address
gives (20_memory.md R51). The latch fields op, rd, rs1, rs2 and imm of R30 are read off it. -/
inductive Resident where
  | instr (i : Instr)
  | fetchFault
deriving DecidableEq, Repr

/-- Why a latch is stalled (R30); `deferral` occurs in F, the others in D. -/
inductive StallReason where
  | operand | downstream | branchWait | loadUse | deferral
deriving DecidableEq, Repr

/-- A stage latch with the fields of R30. -/
structure Latch where
  /-- op, rd, rs1, rs2, imm. -/
  ins : Resident
  /-- The pc the instruction was fetched from. -/
  pc : Option Word
  /-- Resolved value of rs1. -/
  v1 : Word
  /-- Resolved value of rs2. -/
  v2 : Word
  /-- Computed result (R32 says when it is defined). -/
  buf : Word
  /-- Computed data-memory word index. -/
  addr : Word
  busy : Bool
  stalled : Bool
  reason : Option StallReason
  /-- A BZ or BNZ wait was released in this Decode turn (D only). -/
  released : Bool
  /-- The register a BZ or BNZ waits on (D only). -/
  wait : Option Reg
  /-- The non-forwarding branch is resolvable. -/
  resolve : Bool
  /-- The FLAG snapshot captured for a branch. -/
  snap : Option Word
deriving DecidableEq, Repr

/-- Every field at its reset value (R30), not busy, holding EMPTY. -/
def Latch.empty : Latch :=
  { ins := .instr .empty, pc := none, v1 := 0, v2 := 0, buf := 0, addr := 0, busy := false, stalled := false,
    reason := none, released := false, wait := none, resolve := false, snap := none }

/-- The pending control action register (R28). -/
inductive Pend where
  | none
  | flush
  | jump (t : Word)
deriving DecidableEq, Repr

/-- Why a run stopped without a fault (R101). -/
inductive StopReason where
  | complete
  | budget
deriving DecidableEq, Repr

/-- The data memory's contents: word index and word, in the canonical form `Memory.wf` (Machine/Ops.lean): indexes strictly
rising, no entry equal to what an unlisted index reads as. The unit is one word because the spec's memory has no bytes
(20_memory.md R52, R54; log 3). -/
abbrev Memory := List (Nat × Word)

/-- The whole state. -/
structure State where
  /-- x[0] to x[15] (R20). -/
  x : Vector Word 16
  /-- V[0] to V[15] (R21). -/
  valid : Vector Bool 16
  /-- The program counter: the next address Fetch reads (R23). -/
  pc : Word
  /-- FLAG (R24). -/
  flag : Option Word
  /-- HALTED (R25). -/
  halted : Bool
  /-- The cycle counter (R26). -/
  clock : Nat
  /-- The completion counter, a signed 32-bit integer (R27). -/
  done : Word
  /-- The pending control action (R28). -/
  pend : Pend
  /-- The load-use stall flag (R29). -/
  lu : Bool
  /-- The previous flag producer's destination (R31). -/
  prevRd : Option Reg
  /-- The Fetch latch (R30). -/
  f : Latch
  /-- The Decode latch (R30). -/
  d : Latch
  /-- The Execute latch (R30). -/
  e : Latch
  /-- The Memory latch (R30). -/
  m : Latch
  /-- The Writeback latch (R30). -/
  w : Latch
  /-- The data memory DM (R52). -/
  dm : Memory
  /-- The instruction store IS, one packed record a slot; its length is N (R50, R75; log 4). -/
  store : List Packed
  /-- The configuration inputs, constant for a run (R6, R7; log 2). -/
  cfg : Config
  /-- The stop reason once the run has stopped (R7 (4), R101). -/
  stop : Option StopReason
  /-- MODEL'S OWN: whose turn it is in the cycle (R9; log 1). -/
  turn : Stage
  /-- MODEL'S OWN: how many free values have been drawn (log 5). -/
  draws : Nat
deriving DecidableEq, Repr

/-- The two model faults (60_exceptions.md R301, R302). Each ends the run and carries the recorded `info` and the state as
the stages before the raising one left it (R303; log 11). -/
inductive Fault where
  /-- DataAddressFault(addr): raised by a LOAD or STORE at the Memory turn for an address outside DM (R302). Safe: the
  spec gives no value there. -/
  | dataAddressFault (info : Word) (left : State)
  /-- FetchAddressFault(E.pc): raised by Execute on a FETCHFAULT record (R301). Safe. -/
  | fetchAddressFault (info : Option Word) (left : State)
deriving DecidableEq, Repr

/-- Why the model gives no meaning. -/
inductive Refusal where
  /-- An instruction without a meaning, by mnemonic: raised by an arm of exec. Safe. No arm raises it. -/
  | notModelled (mnemonic : String)
  /-- The loader met code 15 at this index (30_encoding.md R78). Safe. -/
  | reservedOpcode (index : Nat)
  /-- The loader met a record that is not well formed at this index (R74). Safe. -/
  | malformedRecord (index : Nat)
  /-- The loader met parameters or memory contents outside R6's bounds. Safe. -/
  | badConfiguration
deriving DecidableEq, Repr

/-- What a meaning, a stage or a step answers. -/
abbrev Result := Host.Outcome State Fault Refusal

/-- R330's reset for a given configuration, instruction store and DMEM_INIT. -/
def State.resetWith (cfg : Config) (store : List Packed) (init : Memory) : State :=
  { x := Vector.replicate 16 0
    valid := Vector.replicate 16 true
    pc := cfg.base
    flag := none
    halted := false
    clock := 0
    done := 0
    pend := .none
    lu := false
    prevRd := none
    f := Latch.empty
    d := { Latch.empty with busy := true }
    e := { Latch.empty with busy := true }
    m := { Latch.empty with busy := true }
    w := { Latch.empty with busy := true }
    dm := init
    store := store
    cfg := cfg
    stop := none
    turn := .writeback
    draws := 0 }

/-- The machine right after reset with nothing loaded: no program, DMEM_INIT all zero (R330; log 2). -/
def State.reset : State := State.resetWith Config.standard [] []

end Sys2Proof.Machine
end

