-- ==== Sys2Proof/Machine/Ops.lean ====
section
/-! DEFINITION. The shared operations over registers, the data memory, the instruction store and the latches, the raising
of a model fault, and the pending control actions. -/

namespace Sys2Proof.Machine

/-! ## Running one turn after another -/

/-- Go on with `k` from the next state; a fault or a refusal ends the cycle there (60_exceptions.md R303). -/
def andThen (o : Result) (k : State → Result) : Result :=
  match o with
  | .next s => k s
  | .fault r => .fault r
  | .refused r => .refused r

/-! ## Registers and validity bits -/

/-- `x[r]`. Register 0 is an ordinary register (10_state.md R20). -/
def State.reg (s : State) (r : Reg) : Word := s.x.get r

/-- `x[r] <- v`. -/
def State.setReg (s : State) (r : Reg) (v : Word) : State := { s with x := s.x.set r.val v r.isLt }

/-- `V[r]` (R21). -/
def State.isValid (s : State) (r : Reg) : Bool := s.valid.get r

/-- `V[r] <- b`. -/
def State.setValid (s : State) (r : Reg) (b : Bool) : State := { s with valid := s.valid.set r.val b r.isLt }

/-- `V[r] <- b` where there is a register. -/
def State.setValidOpt (s : State) (r : Option Reg) (b : Bool) : State :=
  match r with
  | some r => s.setValid r b
  | none => s

/-! ## Free values -/

/-- The value `draw()` gives now (45_control.md R250; log 5). -/
def State.drawn (s : State) : Word := Config.freeValue s.draws

/-- One draw has been made. -/
def State.advanceDraws (s : State) : State := { s with draws := s.draws + 1 }

/-! ## The data memory -/

/-- What a word that is not listed reads as: 0, DMEM_INIT's default (20_memory.md R52, D10; log 3). -/
def Memory.unlisted : Word := 0

/-- The word at index `k`. -/
def Memory.read : Memory → Nat → Word
  | [], _ => Memory.unlisted
  | (a, v) :: rest, k => if a = k then v else Memory.read rest k

/-- An entry in front of a memory, left out where it says what an unlisted word reads as. -/
def Memory.cons (k : Nat) (v : Word) (m : Memory) : Memory :=
  if v = Memory.unlisted then m else (k, v) :: m

/-- The word at index `k` becomes `v`; the canonical form is kept. -/
def Memory.write : Memory → Nat → Word → Memory
  | [], k, v => Memory.cons k v []
  | (a, u) :: rest, k, v =>
    if k < a then Memory.cons k v ((a, u) :: rest)
    else if k = a then Memory.cons k v rest
    else (a, u) :: Memory.write rest k v

/-- The canonical form: indexes strictly rising, no entry equal to what an unlisted word reads as. -/
def Memory.wf : Memory → Bool
  | [] => true
  | (a, v) :: rest => v != Memory.unlisted && rest.all (fun p => decide (a < p.1)) && Memory.wf rest

/-- Every listed index is below `n`. -/
def Memory.below (n : Nat) (m : Memory) : Bool := m.all (fun p => decide (p.1 < n))

/-- `DM_index(addr)` of R53: the word index, or nothing where the address is outside DM. -/
def dmIndex (cfg : Config) (addr : Word) : Option Nat :=
  if sint addr < 0 ∨ (cfg.dmemWords : Int) ≤ sint addr then none else some (sint addr).toNat

/-- The data word at index `k`. -/
def State.word (s : State) (k : Nat) : Word := s.dm.read k

/-- The data word at index `k` becomes `v`. -/
def State.setWord (s : State) (k : Nat) (v : Word) : State := { s with dm := s.dm.write k v }

/-! ## Raising a model fault

60_exceptions.md R303: the run ends with the recorded value, no state is saved and no handler runs. There is no trap entry
and no return from one (R300, R307). -/

/-- `raise DataAddressFault(addr)` (R302). -/
def raiseDataAddress (addr : Word) (s : State) : Result := .fault (.dataAddressFault addr s)

/-- `raise FetchAddressFault(E.pc)` (R301). -/
def raiseFetchAddress (pc : Option Word) (s : State) : Result := .fault (.fetchAddressFault pc s)

/-- `MemRead(addr, 1)`, the word handed on to `k`; DataAddressFault outside DM (R53). -/
def memRead (addr : Word) (s : State) (k : Word → Result) : Result :=
  match dmIndex s.cfg addr with
  | some i => k (s.word i)
  | none => raiseDataAddress addr s

/-- `MemWrite(addr, 1, v)`; DataAddressFault outside DM, before DM changes (R53, R302). -/
def memWrite (addr : Word) (v : Word) (s : State) : Result :=
  match dmIndex s.cfg addr with
  | some i => .next (s.setWord i v)
  | none => raiseDataAddress addr s

/-! ## The instruction store -/

/-- N, the number of instructions in the store (00_scope.md R6). -/
def State.count (s : State) : Nat := s.store.length

/-- Is the address not below BASE and aligned (20_memory.md R51, R55)? The comparison reads addresses as unsigned
(log 7). -/
def addressOk (cfg : Config) (a : Word) : Bool :=
  decide (cfg.base.toNat ≤ a.toNat) && decide ((a.toNat - cfg.base.toNat) % 4 = 0)

/-- The index of an address of the store: `(a - BASE) / 4` (R50). -/
def storeIndex (cfg : Config) (a : Word) : Nat := (a.toNat - cfg.base.toNat) / 4

/-- `IS_read(a)` of R51: FETCHFAULT at a bad address, EMPTY past the end, else the slot's instruction; `none` for a slot
that does not decode (40_pipeline_driver_fetch.md R112). -/
def isRead (s : State) (a : Word) : Option Resident :=
  if addressOk s.cfg a then
    match s.store[storeIndex s.cfg a]? with
    | none => some (.instr .empty)
    | some w =>
      match decode w with
      | .ok i => some (.instr i)
      | .error .reserved => none
  else some .fetchFault

/-! ## Latches -/

/-- `copy` of 40_pipeline_driver_fetch.md R105: what the destination holds afterwards. -/
def Latch.copy (l : Latch) : Latch :=
  { l with busy := false, stalled := false, released := false, reason := none, wait := none }

/-- What a flushed or cleared latch holds: NOP, every other field at its reset value, not busy (R106,
42_execute_memory_writeback.md R182). -/
def Latch.nop : Latch := { Latch.empty with ins := .instr .nop }

/-- A latch that Fetch has just filled from address `a` (R111). -/
def Latch.fetched (r : Resident) (a : Word) : Latch := { Latch.empty with ins := r, pc := some a }

/-- The latch of a stage. -/
def State.latch (s : State) : Stage → Latch
  | .fetch => s.f
  | .decode => s.d
  | .execute => s.e
  | .memory => s.m
  | .writeback => s.w

/-- `stall(reason)` of 41_decode_hazards.md R153. -/
def State.stall (s : State) (why : StallReason) : State :=
  { s with d := { s.d with stalled := true, reason := some why } }

/-- D is released: its stall and the reason are cleared (R141 to R144). -/
def State.release (s : State) : State := { s with d := { s.d with stalled := false, reason := none } }

/-- `E.buf <- v`. -/
def State.setResult (s : State) (v : Word) : State := { s with e := { s.e with buf := v } }

/-- `E.addr <- v`. -/
def State.setAddr (s : State) (v : Word) : State := { s with e := { s.e with addr := v } }

/-- `E.v1 <- v`. -/
def State.setStoreData (s : State) (v : Word) : State := { s with e := { s.e with v1 := v } }

/-- `empty(F)` and `empty(D)` (40_pipeline_driver_fetch.md R107, 45_control.md R256). -/
def State.emptyYounger (s : State) : State := { s with f := Latch.empty, d := Latch.empty }

/-! ## The completion counter -/

/-- `done <- done + n`, n of either sign (10_state.md R27; modulo 2^32, log 10). -/
def State.addDone (s : State) (n : Int) : State := { s with done := s.done + BitVec.ofInt 32 n }

/-- `done <- n`. -/
def State.setDone (s : State) (n : Int) : State := { s with done := BitVec.ofInt 32 n }

/-- `trunc(sint(imm) / 4) - 1`: what a taken branch adds to done (45_control.md R250; `trunc` rounds toward zero, R8). -/
def branchCount (imm : Word) : Int := Int.tdiv (sint imm) 4 - 1

/-- `floor((sint(t) - BASE) / 4) - 1`: what a jump sets done to (42_execute_memory_writeback.md R202). The difference is one
of 32-bit values (R8), read as two's complement, so that it is the target's index minus 1 for every BASE (DEDUCED, log 7). -/
def jumpCount (cfg : Config) (t : Word) : Int := Int.fdiv (sint (t - cfg.base)) 4 - 1

end Sys2Proof.Machine
end

