-- ==== Sys2Proof/Machine/Operands.lean ====
section
/-! DEFINITION. Which registers an instruction reads and writes (30_encoding.md R73), and Decode: hazard detection, stalls,
forwarding, claim and dispatch (41_decode_hazards.md). -/

namespace Sys2Proof.Machine

/-! ## Operand roles -/

/-- Which of the two source slots. -/
inductive Slot where
  | rs1 | rs2
deriving DecidableEq, Repr

/-- `sources(op)` of R73, with the registers, rs1 before rs2. -/
def Instr.sources : Instr → List (Slot × Reg)
  | .add _ a b => [(.rs1, a), (.rs2, b)]
  | .sub _ a b => [(.rs1, a), (.rs2, b)]
  | .mul _ a b => [(.rs1, a), (.rs2, b)]
  | .and _ a b => [(.rs1, a), (.rs2, b)]
  | .or _ a b => [(.rs1, a), (.rs2, b)]
  | .xor _ a b => [(.rs1, a), (.rs2, b)]
  | .movc _ _ => []
  | .load _ a _ => [(.rs1, a)]
  | .store a b _ => [(.rs1, a), (.rs2, b)]
  | .bz _ => []
  | .bnz _ => []
  | .jump a _ => [(.rs1, a)]
  | .halt => []
  | .nop => []
  | .empty => []

/-- The destination register: `some rd` exactly for the opcodes in WRITES (00_scope.md R8, R73). -/
def Instr.dest : Instr → Option Reg
  | .add rd _ _ => some rd
  | .sub rd _ _ => some rd
  | .mul rd _ _ => some rd
  | .and rd _ _ => some rd
  | .or rd _ _ => some rd
  | .xor rd _ _ => some rd
  | .movc rd _ => some rd
  | .load rd _ _ => some rd
  | .store _ _ _ => none
  | .bz _ => none
  | .bnz _ => none
  | .jump _ _ => none
  | .halt => none
  | .nop => none
  | .empty => none

/-- The destination of an instruction in ARITH_FLAG = ADD, SUB, MUL (R8), the flag producers. -/
def Instr.flagDest : Instr → Option Reg
  | .add rd _ _ => some rd
  | .sub rd _ _ => some rd
  | .mul rd _ _ => some rd
  | .and _ _ _ => none
  | .or _ _ _ => none
  | .xor _ _ _ => none
  | .movc _ _ => none
  | .load _ _ _ => none
  | .store _ _ _ => none
  | .bz _ => none
  | .bnz _ => none
  | .jump _ _ => none
  | .halt => none
  | .nop => none
  | .empty => none

/-- Is it a BZ or a BNZ? -/
def Instr.isBranch : Instr → Bool
  | .bz _ => true
  | .bnz _ => true
  | .add _ _ _ => false
  | .sub _ _ _ => false
  | .mul _ _ _ => false
  | .and _ _ _ => false
  | .or _ _ _ => false
  | .xor _ _ _ => false
  | .movc _ _ => false
  | .load _ _ _ => false
  | .store _ _ _ => false
  | .jump _ _ => false
  | .halt => false
  | .nop => false
  | .empty => false

/-- `sources(L.op)` of a latch; a FETCHFAULT record has none (20_memory.md R51). -/
def Latch.sources (l : Latch) : List (Slot × Reg) :=
  match l.ins with
  | .instr i => Instr.sources i
  | .fetchFault => []

/-- `L.rd` where `L.op` is in WRITES. -/
def Latch.dest (l : Latch) : Option Reg :=
  match l.ins with
  | .instr i => Instr.dest i
  | .fetchFault => none

/-- `L.op` is BZ or BNZ. -/
def Latch.isBranch (l : Latch) : Bool :=
  match l.ins with
  | .instr i => Instr.isBranch i
  | .fetchFault => false

/-- `L.op = LOAD`. -/
def Latch.isLoad (l : Latch) : Bool :=
  match l.ins with
  | .instr (.load _ _ _) => true
  | _ => false

/-- `L.op` in WRITES and `L.rd = r`: the match of R157 and of the writeback check R207. Busy, stalled and staleness are
not tested (D43). -/
def Latch.produces (l : Latch) (r : Reg) : Bool := decide (l.dest = some r)

/-! ## Stall-clearing pre-checks, R141 to R145 -/

/-- P1, operands ready (R141): only for an opcode with at least one source (D18). -/
def preCheck1 (s : State) : State :=
  if s.d.stalled && !s.d.sources.isEmpty && s.d.sources.all (fun p => s.isValid p.2) then s.release else s

/-- P2, downstream release (R142). -/
def preCheck2 (s : State) : State :=
  if s.d.stalled && decide (s.d.reason = some .downstream) && !s.e.stalled then s.release else s

/-- `D.wait = NONE or V[D.wait] = 1`. -/
def waitOver (s : State) : Bool :=
  match s.d.wait with
  | none => true
  | some r => s.isValid r

/-- P3, non-forwarding branch release (R143). -/
def preCheck3 (s : State) : State :=
  if s.d.stalled && !s.cfg.fwd && s.d.isBranch && decide (s.d.reason = some .branchWait) && waitOver s then
    { s.release with d := { s.release.d with released := true } }
  else s

/-- P4, load-use release (R144). -/
def preCheck4 (s : State) : State :=
  if s.d.stalled && decide (s.d.reason = some .loadUse) && !s.lu then s.release else s

/-- P1 to P4 in order, each on what the earlier ones left (R145). With D not stalled none of them changes anything. -/
def preChecks (s : State) : State := preCheck4 (preCheck3 (preCheck2 (preCheck1 s)))

/-! ## Main logic, R150 to R159 -/

/-- `inv`: the sources whose validity bit is 0, rs1 before rs2 (R150). -/
def invalidSources (i : Instr) (s : State) : List (Slot × Reg) :=
  (Instr.sources i).filter (fun p => !s.isValid p.2)

/-- `D.v1 <- v` or `D.v2 <- v`. -/
def State.setOperand (s : State) (slot : Slot) (v : Word) : State :=
  match slot with
  | .rs1 => { s with d := { s.d with v1 := v } }
  | .rs2 => { s with d := { s.d with v2 := v } }

/-- The register-file values of the sources go into D.v1 and D.v2, valid or not (R152). -/
def readOperands (i : Instr) (s : State) : State :=
  (Instr.sources i).foldl (fun t p => t.setOperand p.1 (s.reg p.2)) s

/-- The order in which R157 searches the producer latches for one source. -/
def searchOrder (i : Instr) (slot : Slot) : List Stage :=
  match i with
  | .store a b _ => if slot = .rs1 ∧ a ≠ b then [.memory, .writeback] else [.execute, .memory, .writeback]
  | _ => [.execute, .memory, .writeback]

/-- The first latch in the order that produces the register (R157). -/
def findProducer (s : State) (order : List Stage) (r : Reg) : Option Stage :=
  order.find? (fun st => (s.latch st).produces r)

/-- The claim and the copy into E (R158). -/
def dispatch (i : Instr) (s : State) : State :=
  let t := s.setValidOpt (Instr.dest i) false
  { t with
    prevRd := match Instr.flagDest i with
      | some rd => some rd
      | none => t.prevRd
    e := t.d.copy }

/-- R159, then R158: defer to a stalled E, or dispatch. -/
def dispatchOrDefer (i : Instr) (s : State) : State :=
  if s.e.stalled then s.stall .downstream else dispatch i s

/-- Forward each invalid source in turn, stalling where R157 or R155 says so, then go on to the dispatch. -/
def forwardAll (i : Instr) : List (Slot × Reg) → State → State
  | [], s => dispatchOrDefer i s
  | (slot, r) :: rest, s =>
    match findProducer s (searchOrder i slot) r with
    | none => s.stall .operand
    | some st =>
      if st = .execute ∧ s.e.isLoad = true then { s.stall .loadUse with lu := true }
      else forwardAll i rest (s.setOperand slot (s.latch st).buf)

/-- The branch is resolvable and carries the FLAG snapshot (R156, first case). -/
def State.captureFlag (s : State) : State :=
  { s with d := { s.d with resolve := true, snap := s.flag, released := false } }

/-- The branch waits on prev_rd (R156, second case). -/
def State.waitForFlag (s : State) : State :=
  let t := s.stall .branchWait
  { t with d := { t.d with wait := t.prevRd } }

/-- Decode's main logic for the instruction in D (R140 after the guard). -/
def issue (i : Instr) (s : State) : State :=
  let inv := invalidSources i s
  if !inv.isEmpty && !s.cfg.fwd then s.stall .operand
  else
    let t := readOperands i s
    if !t.cfg.fwd && Instr.isBranch i then
      if t.d.released then forwardAll i inv t.captureFlag else t.waitForFlag
    else forwardAll i inv t

/-- Decode's main logic for a FETCHFAULT record, which has no sources and no destination (20_memory.md R51). -/
def issueFetchFault (s : State) : State :=
  if s.e.stalled then s.stall .downstream else { s with e := s.d.copy }

end Sys2Proof.Machine
end

