-- ==== Sys2Proof/Machine/Flags.lean ====
section
/-! DEFINITION. FLAG, what Writeback does with a retiring instruction, and the branch test
(42_execute_memory_writeback.md R205 to R210, 45_control.md R250). -/

namespace Sys2Proof.Machine

/-! ## Retirement -/

/-- `FLAG <- v` (10_state.md R24). -/
def State.setFlag (s : State) (v : Option Word) : State := { s with flag := v }

/-- `V[rd] <- 1` unless latch E holds a younger claim on rd (R207). -/
def revalidate (rd : Reg) (s : State) : State :=
  if s.e.produces rd then s else s.setValid rd true

/-- Retire ADD, SUB or MUL: x[rd] and FLAG get W.buf, rd is re-validated, done grows by 1 (R206 to R209). -/
def retireArith (rd : Reg) (s : State) : State :=
  (revalidate rd ((s.setReg rd s.w.buf).setFlag (some s.w.buf))).addDone 1

/-- Retire any other instruction with a destination: as `retireArith`, but FLAG becomes NONE (R208). -/
def retireResult (rd : Reg) (s : State) : State :=
  (revalidate rd ((s.setReg rd s.w.buf).setFlag none)).addDone 1

/-- Retire an instruction without a destination: FLAG becomes NONE, done grows by 1 (R208, R209). -/
def retirePlain (s : State) : State := (s.setFlag none).addDone 1

/-- Retire a bubble: FLAG becomes NONE and nothing is counted (R208, R209). -/
def retireBubble (s : State) : State := s.setFlag none

/-! ## The branch test -/

/-- The value a branch in E tests (R250): with forwarding the buffer of latch M where M holds a producer, without it the
snapshot; where there is none, nothing, and the value is drawn. -/
def definedTest (s : State) : Option Word :=
  if s.cfg.fwd then
    if s.m.dest.isSome then some s.m.buf else none
  else s.e.snap

/-- The value tested: the defined one, else a free value (R250, D23; log 5). -/
def testedValue (s : State) : Word := (definedTest s).getD s.drawn

/-- The draw counter after the test: it moves exactly when the value was drawn. -/
def afterTest (s : State) : State := if (definedTest s).isSome then s else s.advanceDraws

/-- Is the branch evaluated at all (R250, D24)? -/
def branchEvaluated (s : State) : Bool := s.cfg.fwd || s.e.resolve

/-- The pc of the branch in E. A branch that Fetch has read carries it; for a latch without one, which no run produces,
the pc that R114 (c) gives (log 8). -/
def branchPc (s : State) : Word := s.e.pc.getD (s.pc - 8)

/-- Is the branch taken (R250)? -/
def branchTaken (cond : Word → Bool) (s : State) : Bool := branchEvaluated s && cond (testedValue s)

/-- Where a taken branch sends Fetch: `E.pc + imm - 4` (R250, D22), also where pc is not E.pc + 8. In a second run of a
branch (log 18) Fetch holds or is on its catch-up path, so nothing is read at that address in the same cycle, and the first
instruction run is the one at p + imm - 4, where R77, R250 and D22 say p + imm (DESIGN CHOICE, log 18). -/
def branchRedirect (imm : Word) (s : State) : Word := branchPc s + imm - 4

/-- `branch(E, cond)` of R250: a taken branch redirects pc, corrects done and leaves a pending flush; one that is not
taken changes none of the three. Where the correction makes done N the run completes, be it before the fetch from a
misaligned target faults (DESIGN CHOICE, log 17). -/
def resolveBranch (cond : Word → Bool) (imm : Word) (s : State) : State :=
  { afterTest s with
    pc := if branchTaken cond s then branchRedirect imm s else s.pc
    done := if branchTaken cond s then s.done + BitVec.ofInt 32 (branchCount imm) else s.done
    pend := if branchTaken cond s then .flush else s.pend }

/-- `v = 0`, all 32 bits (R250, R251). -/
def isZero (v : Word) : Bool := decide (v = 0)

/-- `v != 0` (R250, R252). -/
def isNonzero (v : Word) : Bool := !isZero v

end Sys2Proof.Machine
end

