-- ==== Sys2Proof/Machine/Alu.lean ====
section
/-! DEFINITION. The meanings of ADD, SUB, MUL, AND, OR, XOR and MOVC (43_alu.md).

A meaning says what the instruction does at the turn of the stage that holds it (`s.turn`, log 1): at Decode it is issued,
at Execute it computes, at Memory it may access DM, at Writeback it retires. Fetch does nothing that depends on the
instruction (40_pipeline_driver_fetch.md R111). The copies from latch to latch are the stages' own
(Machine/Pipeline.lean). -/

namespace Sys2Proof.Machine

/-- ADD (R220): `E.buf <- E.v1 + E.v2`. -/
def execAdd (rd rs1 rs2 : Reg) (s : State) : Result :=
  match s.turn with
  | .fetch => .next s
  | .decode => .next (issue (.add rd rs1 rs2) s)
  | .execute => .next (s.setResult (s.e.v1 + s.e.v2))
  | .memory => .next s
  | .writeback => .next (retireArith rd s)

/-- SUB (R221): `E.buf <- E.v1 - E.v2`, rs1 the minuend (D45). -/
def execSub (rd rs1 rs2 : Reg) (s : State) : Result :=
  match s.turn with
  | .fetch => .next s
  | .decode => .next (issue (.sub rd rs1 rs2) s)
  | .execute => .next (s.setResult (s.e.v1 - s.e.v2))
  | .memory => .next s
  | .writeback => .next (retireArith rd s)

/-- `E.stalled <- 1`: MUL holds Execute for a second cycle (R184). -/
def State.holdExecute (s : State) : State := { s with e := { s.e with stalled := true } }

/-- MUL (R222), first cycle: the low 32 bits of the product into E.buf, and E is held. The second cycle is the Execute
stage's (42_execute_memory_writeback.md R183). -/
def execMul (rd rs1 rs2 : Reg) (s : State) : Result :=
  match s.turn with
  | .fetch => .next s
  | .decode => .next (issue (.mul rd rs1 rs2) s)
  | .execute => .next (s.setResult (s.e.v1 * s.e.v2)).holdExecute
  | .memory => .next s
  | .writeback => .next (retireArith rd s)

/-- AND (R223). -/
def execAnd (rd rs1 rs2 : Reg) (s : State) : Result :=
  match s.turn with
  | .fetch => .next s
  | .decode => .next (issue (.and rd rs1 rs2) s)
  | .execute => .next (s.setResult (s.e.v1 &&& s.e.v2))
  | .memory => .next s
  | .writeback => .next (retireResult rd s)

/-- OR (R224). -/
def execOr (rd rs1 rs2 : Reg) (s : State) : Result :=
  match s.turn with
  | .fetch => .next s
  | .decode => .next (issue (.or rd rs1 rs2) s)
  | .execute => .next (s.setResult (s.e.v1 ||| s.e.v2))
  | .memory => .next s
  | .writeback => .next (retireResult rd s)

/-- XOR (R225). -/
def execXor (rd rs1 rs2 : Reg) (s : State) : Result :=
  match s.turn with
  | .fetch => .next s
  | .decode => .next (issue (.xor rd rs1 rs2) s)
  | .execute => .next (s.setResult (s.e.v1 ^^^ s.e.v2))
  | .memory => .next s
  | .writeback => .next (retireResult rd s)

/-- MOVC (R226): `E.buf <- imm`. -/
def execMovc (rd : Reg) (imm : Word) (s : State) : Result :=
  match s.turn with
  | .fetch => .next s
  | .decode => .next (issue (.movc rd imm) s)
  | .execute => .next (s.setResult imm)
  | .memory => .next s
  | .writeback => .next (retireResult rd s)

end Sys2Proof.Machine
end

