-- ==== Sys2Proof/Machine/Control.lean ====
section
/-! DEFINITION. The meanings of BZ, BNZ, JUMP, HALT, NOP and EMPTY (45_control.md). Their turns are read as in
Machine/Alu.lean; the pending action of a branch or a jump is applied by the Memory stage
(42_execute_memory_writeback.md R201, R202; Machine/Pipeline.lean). -/

namespace Sys2Proof.Machine

/-- BZ (R251): `branch(E, v = 0)`. -/
def execBz (imm : Word) (s : State) : Result :=
  match s.turn with
  | .fetch => .next s
  | .decode => .next (issue (.bz imm) s)
  | .execute => .next (resolveBranch isZero imm s)
  | .memory => .next s
  | .writeback => .next (retirePlain s)

/-- BNZ (R252): `branch(E, v != 0)`. -/
def execBnz (imm : Word) (s : State) : Result :=
  match s.turn with
  | .fetch => .next s
  | .decode => .next (issue (.bnz imm) s)
  | .execute => .next (resolveBranch isNonzero imm s)
  | .memory => .next s
  | .writeback => .next (retirePlain s)

/-- `pend <- JUMP(t)` (R254). -/
def State.pendJump (s : State) (t : Word) : State := { s with pend := .jump t }

/-- JUMP (R254): `pend <- JUMP(E.v1 + imm)`. -/
def execJump (rs1 : Reg) (imm : Word) (s : State) : Result :=
  match s.turn with
  | .fetch => .next s
  | .decode => .next (issue (.jump rs1 imm) s)
  | .execute => .next (s.pendJump (s.e.v1 + imm))
  | .memory => .next s
  | .writeback => .next (retirePlain s)

/-- HALT at Execute: F and D are emptied without re-validation, HALTED <- 1, done <- N - 2 (R256). -/
def haltExecute (s : State) : State :=
  { s.emptyYounger.setDone ((s.count : Int) - 2) with halted := true }

/-- HALT (R256). -/
def execHalt (s : State) : Result :=
  match s.turn with
  | .fetch => .next s
  | .decode => .next (issue .halt s)
  | .execute => .next (haltExecute s)
  | .memory => .next s
  | .writeback => .next (retirePlain s)

/-- NOP (R258). -/
def execNop (s : State) : Result :=
  match s.turn with
  | .fetch => .next s
  | .decode => .next (issue .nop s)
  | .execute => .next s
  | .memory => .next s
  | .writeback => .next (retireBubble s)

/-- EMPTY (R259): as NOP in every stage. -/
def execEmpty (s : State) : Result :=
  match s.turn with
  | .fetch => .next s
  | .decode => .next (issue .empty s)
  | .execute => .next s
  | .memory => .next s
  | .writeback => .next (retireBubble s)

end Sys2Proof.Machine
end

