-- ==== Sys2Proof/Machine/LoadStore.lean ====
section
/-! DEFINITION. The meanings of LOAD and STORE (44_loadstore.md). Their turns are read as in Machine/Alu.lean. -/

namespace Sys2Proof.Machine

/-- `base + imm` modulo 2^32, the one addressing mode (R241). -/
def effectiveAddress (base imm : Word) : Word := base + imm

/-- LOAD at Execute: the address, and a free value in E.buf, which holds no defined value before the Memory turn
(R240; 10_state.md R32; log 6). -/
def loadExecute (imm : Word) (s : State) : State :=
  ((s.setAddr (effectiveAddress s.e.v1 imm)).setResult s.drawn).advanceDraws

/-- `M.buf <- v`. -/
def State.setLoaded (s : State) (v : Word) : State := { s with m := { s.m with buf := v } }

/-- LOAD at Memory: `M.buf <- MemRead(M.addr, 1)`, or DataAddressFault before any change (R240, R302). -/
def loadAccess (s : State) : Result := memRead s.m.addr s (fun v => .next (s.setLoaded v))

/-- LOAD (R240). -/
def execLoad (rd rs1 : Reg) (imm : Word) (s : State) : Result :=
  match s.turn with
  | .fetch => .next s
  | .decode => .next (issue (.load rd rs1 imm) s)
  | .execute => .next (loadExecute imm s)
  | .memory => loadAccess s
  | .writeback => .next (retireResult rd s)

/-- STORE's last-moment forward: the data from the first of M, W that produces rs1, else the value Decode resolved
(R242, D42). -/
def storeData (rs1 : Reg) (s : State) : Word :=
  match findProducer s [.memory, .writeback] rs1 with
  | some st => (s.latch st).buf
  | none => s.e.v1

/-- STORE at Execute: the address from the base v2, and the data re-resolved (R242). -/
def storeExecute (rs1 : Reg) (imm : Word) (s : State) : State :=
  (s.setAddr (effectiveAddress s.e.v2 imm)).setStoreData (storeData rs1 s)

/-- STORE at Memory: `MemWrite(M.addr, 1, M.v1)`, or DataAddressFault before DM changes (R242, R302). -/
def storeAccess (s : State) : Result := memWrite s.m.addr s.m.v1 s

/-- STORE (R242). -/
def execStore (rs1 rs2 : Reg) (imm : Word) (s : State) : Result :=
  match s.turn with
  | .fetch => .next s
  | .decode => .next (issue (.store rs1 rs2 imm) s)
  | .execute => .next (storeExecute rs1 imm s)
  | .memory => storeAccess s
  | .writeback => .next (retirePlain s)

end Sys2Proof.Machine
end

