-- ==== Sys2Proof/Machine/Pipeline.lean ====
section
/-! DEFINITION. The five stages, the cycle and the driver (40_pipeline_driver_fetch.md, 41_decode_hazards.md R140,
42_execute_memory_writeback.md), and how an instruction is put where the next cycle runs it. -/

namespace Sys2Proof.Machine

/-- It is stage `t`'s turn (00_scope.md R9). -/
def State.atTurn (s : State) (t : Stage) : State := { s with turn := t }

/-! ## Writeback -/

/-- Writeback's turn (R205). A FETCHFAULT record never gets here; its retirement is what R205 says of an opcode in no
set (log 12). -/
def writebackStage (s : State) : Result :=
  let t := s.atTurn .writeback
  if t.w.busy then .next t
  else
    match t.w.ins with
    | .instr i => exec i t
    | .fetchFault => .next (retirePlain t)

/-! ## Memory -/

/-- The flush primitive on F, D and E (40_pipeline_driver_fetch.md R106): E's claim is released first, then all three
hold a NOP. -/
def State.flushYounger (s : State) : State :=
  { s.setValidOpt s.e.dest true with f := Latch.nop, d := Latch.nop, e := Latch.nop }

/-- A scheduled branch flush (R201). -/
def applyFlush (s : State) : State := { s.flushYounger with pend := .none }

/-- A scheduled jump to `t` (R202). It sets done one below the target's index, and the JUMP's retirement in the next cycle
makes up the one. For `t` from BASE + 4N + 1 to BASE + 4N + 7 done so becomes N, here or at the retirement, and the run
completes where R254 and R345 say that it never does (DESIGN CHOICE, log 16). -/
def applyJump (t : Word) (s : State) : State :=
  { s.flushYounger.setDone (jumpCount s.cfg t) with pc := t, lu := false, pend := .none }

/-- The pending control action is consumed (10_state.md R28, R203). -/
def applyPending (s : State) : State :=
  match s.pend with
  | .none => s
  | .flush => applyFlush s
  | .jump t => applyJump t s

/-- The access of the instruction in M (R200). -/
def memoryAccess (s : State) : Result :=
  match s.m.ins with
  | .instr i => exec i s
  | .fetchFault => .next s

/-- The stale Memory latch is flushed to a NOP (R197). -/
def State.dropStale (s : State) (stale : Bool) : State := if stale then { s with m := Latch.nop } else s

/-- `W <- copy(M)` (R198). -/
def State.copyToWriteback (s : State) : State := { s with w := s.m.copy }

/-- The Memory stage's turn (R195). -/
def memoryStage (s : State) : Result :=
  let t := s.atTurn .memory
  if t.m.busy then .next t
  else
    andThen (if t.e.stalled then .next t else memoryAccess t) fun u =>
      .next ((applyPending u).dropStale t.e.stalled).copyToWriteback

/-! ## Execute -/

/-- `M <- copy(E)` (R186). -/
def State.copyToMemory (s : State) : State := { s with m := s.e.copy }

/-- A MUL's second cycle: E is released and copied (R183). -/
def finishMul (s : State) : State := { s with e := { s.e with stalled := false } }.copyToMemory

/-- Is upstream blocked, so that the stale instruction in E is cleared (R182)? A branch is not cleared: behind a D that
waits it is run again from E, with pc = p + 12, and copied into M again, where R114 (c) says that pc is p + 8 (DESIGN
CHOICE, log 18). -/
def upstreamBlocked (s : State) : Bool :=
  s.d.stalled && decide (s.d.reason ≠ some .downstream) && !s.e.isBranch

/-- E becomes a NOP without re-validation, and M its copy (R182). -/
def clearExecute (s : State) : State := { s with e := Latch.nop }.copyToMemory

/-- The copy that follows the opcode rule, unless the instruction holds E (R184, R186). -/
def copyUnlessHeld (s : State) : State := if s.e.stalled then s else s.copyToMemory

/-- Execute's turn has begun: the load-use flag is cleared before any test (R180). -/
def State.atExecute (s : State) : State := { s.atTurn .execute with lu := false }

/-- Execute's turn (R180). A FETCHFAULT record raises FetchAddressFault with the state Execute was given (R185,
60_exceptions.md R303; log 11). -/
def executeStage (s : State) : Result :=
  let t := s.atExecute
  if t.e.busy then .next t
  else if t.e.stalled then .next (finishMul t)
  else if upstreamBlocked t then .next (clearExecute t)
  else
    match t.e.ins with
    | .instr i => andThen (exec i t) fun u => .next (copyUnlessHeld u)
    | .fetchFault => raiseFetchAddress t.e.pc s

/-! ## Decode -/

/-- Decode's turn (R140): the pre-checks, the guard R146, then the main logic for the instruction in D. -/
def decodeStage (s : State) : Result :=
  let t := preChecks (s.atTurn .decode)
  if t.d.busy || t.d.stalled then .next t
  else
    match t.d.ins with
    | .instr i => exec i t
    | .fetchFault => .next (issueFetchFault t)

/-! ## Fetch -/

/-- F has just been given an instruction: it goes on into D, or F defers to a stalled D (R111). -/
def handToDecode (s : State) : State :=
  if s.d.stalled then { s with f := { s.f with stalled := true, reason := some .deferral } }
  else { s with d := s.f.copy }

/-- The catch-up path (R110). -/
def fetchCatchUp (s : State) : State :=
  let f := { s.f with stalled := false, reason := none }
  { s with f := f, d := f.copy }

/-- The normal path for the record read at pc (R111): after a HALT it is replaced by EMPTY. pc + 4 is taken modulo 2^32, so
a run that goes on past the end of the store comes round to address 0 (DESIGN CHOICE, log 19). -/
def fetchRecord (r : Resident) (s : State) : State :=
  let f := if s.halted then Latch.empty else Latch.fetched r s.pc
  handToDecode { s with f := f, pc := s.pc + instrWidth }

/-- Fetch's turn (R110 to R113). A slot that does not decode changes nothing (R112). -/
def fetchStage (s : State) : State :=
  let t := s.atTurn .fetch
  if t.f.stalled && decide (t.f.reason = some .deferral) && !t.d.stalled then fetchCatchUp t
  else if !t.f.busy && !t.f.stalled then
    match isRead t t.pc with
    | none => t
    | some r => fetchRecord r t
  else t

/-! ## The cycle and the driver -/

/-- `clock <- clock + 1`, and Writeback's turn comes next. -/
def State.endCycle (s : State) : State := { s.atTurn .writeback with clock := s.clock + 1 }

/-- One cycle (R100): the five turns in order, then the clock. -/
def cycle (s : State) : Result :=
  andThen (writebackStage s) fun s =>
  andThen (memoryStage s) fun s =>
  andThen (executeStage s) fun s =>
  andThen (decodeStage s) fun s =>
  .next (fetchStage s).endCycle

/-- `CYCLE_LIMIT present and clock >= CYCLE_LIMIT` (R101). -/
def budgetSpent (s : State) : Bool :=
  match s.cfg.cycleLimit with
  | some l => decide (l ≤ s.clock)
  | none => false

/-- `done = N`, done read as signed (R101, 10_state.md R27). -/
def completed (s : State) : Bool := decide (sint s.done = (s.count : Int))

/-- The completion test made after a cycle (R101, D27): done = N, however done came to be N, also where a JUMP past the
end of the store set it (DESIGN CHOICE, log 16), or a taken branch past the end or to a target whose fetch would fault
(DESIGN CHOICE, log 17). -/
def State.checkComplete (s : State) : State := if completed s then { s with stop := some .complete } else s

/-- One turn of the driver's loop (R101): a stopped run stays as it is (log 9), a spent budget stops the run before the
cycle, and otherwise a cycle runs and the completion test follows. -/
def advance (s : State) : Result :=
  match s.stop with
  | some _ => .next s
  | none =>
    if budgetSpent s then .next { s with stop := some .budget }
    else andThen (cycle s) fun t => .next t.checkComplete

/-! ## Putting an instruction where the next cycle runs it (log 13) -/

/-- Slot `k` of the store becomes `w`; slots before it that do not exist yet hold EMPTY. -/
def putSlot : List Packed → Nat → Packed → List Packed
  | [], 0, w => [w]
  | _ :: rest, 0, w => w :: rest
  | [], k + 1, w => encode .empty :: putSlot [] k w
  | v :: rest, k + 1, w => v :: putSlot rest k w

/-- Where the next instruction is fetched: pc, or BASE where pc is no address of the store. -/
def fetchAddress (s : State) : Word := if addressOk s.cfg s.pc then s.pc else s.cfg.base

/-- The latch of an instruction as it leaves Decode: fetched from `a`, operands read from the register file, and a
branch resolvable with the FLAG snapshot in non-forwarding mode. -/
def decodedLatch (i : Instr) (a : Word) (s : State) : Latch :=
  let t := readOperands i { s with d := Latch.fetched (.instr i) a }
  if !s.cfg.fwd && Instr.isBranch i then t.captureFlag.d else t.d

/-- The store with the word at the fetch address, and, where it decodes, the pipeline as Fetch and Decode leave it once
they have carried that one instruction, alone, to latch E: pc past it, its destination claimed, F, D, M and W empty. The
next cycle then runs it in Execute. -/
def placeInstruction (s : State) (w : Packed) : State :=
  let a := fetchAddress s
  let t := { s with
    store := putSlot s.store (storeIndex s.cfg a) w
    pc := a
    cfg := { s.cfg with cycleLimit := if budgetSpent s then none else s.cfg.cycleLimit }
    stop := none
    turn := .writeback
    pend := .none
    f := Latch.empty
    d := Latch.empty
    e := Latch.empty
    m := Latch.empty
    w := Latch.empty }
  match decode w with
  | .ok i => { dispatch i { t with d := decodedLatch i a t, pc := a + instrWidth } with d := Latch.empty }
  | .error _ => t

end Sys2Proof.Machine
end

