-- ==== Sys2Proof/Machine/Step.lean ====
section
/-! DEFINITION. One step of the machine is one clock cycle of the driver (00_scope.md R2, 40_pipeline_driver_fetch.md R101;
log 1). -/

namespace Sys2Proof.Machine

/-- One step. -/
def step : State → Host.Outcome State Fault Refusal := advance

/-- `s` with the instruction of a table word placed so that the very next step runs it (log 13). -/
def State.withFetchWord (s : State) (nbits w : Nat) : State := placeInstruction s (slotOfTableWord nbits w)

end Sys2Proof.Machine
end

