-- ==== Sys2Proof/Machine/Load.lean ====
section
/-! DEFINITION. What the external loader hands over, and what the core exposes at the end (70_reset_and_hazards.md R334,
30_encoding.md R74, R78, 10_state.md R35). -/

namespace Sys2Proof.Machine

/-- The index of the first slot that holds code 15 (R78). -/
def firstReserved : Nat → List Packed → Option Nat
  | _, [] => none
  | k, w :: rest =>
    match decode w with
    | .ok _ => firstReserved (k + 1) rest
    | .error .reserved => some k

/-- The reset state of a loaded program: refused where a slot is reserved (R78, D8) or a parameter or DMEM_INIT is out of
bounds (R6, D3, D4). -/
def load (cfg : Config) (store : List Packed) (init : Memory) : Result :=
  match firstReserved 0 store with
  | some k => .refused (.reservedOpcode k)
  | none =>
    if cfg.wf store.length && init.wf && init.below cfg.dmemWords then .next (State.resetWith cfg store init)
    else .refused .badConfiguration

/-- The instructions of a list of records, or the index of the first that is not well formed (R74). -/
def instructions : Nat → List Record → Except Nat (List Instr)
  | _, [] => .ok []
  | k, r :: rest =>
    match r.toInstr with
    | none => .error k
    | some i =>
      match instructions (k + 1) rest with
      | .ok is => .ok (i :: is)
      | .error e => .error e

/-- Load a program given as records (R70, R71); a malformed one starts no run (R74). -/
def loadRecords (cfg : Config) (rs : List Record) (init : Memory) : Result :=
  match instructions 0 rs with
  | .error k => .refused (.malformedRecord k)
  | .ok is => load cfg (is.map encode) init

/-- A memory from a list of index and word pairs, later ones winning. -/
def Memory.ofPairs (ps : List (Nat × Word)) : Memory := ps.foldl (fun m p => m.write p.1 p.2) []

/-- What the core exposes (00_scope.md R7 (4), 10_state.md R35). -/
structure Outputs where
  x : Vector Word 16
  valid : Vector Bool 16
  dm : Memory
  clock : Nat
  done : Int
  halted : Bool
  stop : Option StopReason
deriving DecidableEq, Repr

/-- The outputs of a state. -/
def State.outputs (s : State) : Outputs :=
  { x := s.x, valid := s.valid, dm := s.dm, clock := s.clock, done := sint s.done, halted := s.halted, stop := s.stop }

/-- The window of data memory the source's report shows: the first 100 words (R35). -/
def State.dmWindow (s : State) : List Word := (List.range 100).map s.word

end Sys2Proof.Machine
end

