-- ==== Sys2Proof/Safety.lean ====
section
/-! DEFINITION. What a legal state and a safe run are, in the terms the statements use. -/

namespace Sys2Proof.Machine

/-- The answer is a next state. -/
def Answers (o : Result) (t : State) : Prop := o = .next t

/-- The data memory is in its canonical form and lists no index outside DM (20_memory.md R52). -/
def MemoryLegal (s : State) : Prop := s.dm.wf = true ∧ s.dm.below s.cfg.dmemWords = true

/-- The inputs a run never changes: the instruction store and the configuration (20_memory.md R50, R62; 00_scope.md R7). -/
def SameInputs (s t : State) : Prop := t.store = s.store ∧ t.cfg = s.cfg

/-- Every data word reads the same. -/
def SameWords (s t : State) : Prop := ∀ k, t.word k = s.word k

/-- Every data word but the one at index `k` reads the same. -/
def SameWordsBut (k : Nat) (s t : State) : Prop := ∀ j, j ≠ k → t.word j = s.word j

/-- Every register but `r` reads the same. -/
def SameRegsBut (r : Reg) (s t : State) : Prop := ∀ q, q ≠ r → t.reg q = s.reg q

/-- Every register reads the same. -/
def SameRegs (s t : State) : Prop := ∀ q, t.reg q = s.reg q

/-- `n` steps, ending at the first fault or refusal. -/
def steps : Nat → State → Result
  | 0, s => .next s
  | n + 1, s => andThen (step s) (steps n)

/-- Latch `l` holds a bubble (00_scope.md R8 BUBBLE). -/
def Bubble (l : Latch) : Prop := l.ins = .instr .empty ∨ l.ins = .instr .nop

/-- The result of an ALU instruction or a MOVC on register values `reg` (43_alu.md R220 to R226). -/
def aluValue (reg : Reg → Word) : Instr → Option Word
  | .add _ a b => some (reg a + reg b)
  | .sub _ a b => some (reg a - reg b)
  | .mul _ a b => some (reg a * reg b)
  | .and _ a b => some (reg a &&& reg b)
  | .or _ a b => some (reg a ||| reg b)
  | .xor _ a b => some (reg a ^^^ reg b)
  | .movc _ imm => some imm
  | .load _ _ _ => none
  | .store _ _ _ => none
  | .bz _ => none
  | .bnz _ => none
  | .jump _ _ => none
  | .halt => none
  | .nop => none
  | .empty => none

/-- The cycles from an instruction's fetch to its retirement with no stall: five, and one more for a MUL
(70_reset_and_hazards.md R332, 42_execute_memory_writeback.md R184). -/
def cyclesAlone : Instr → Nat
  | .mul _ _ _ => 6
  | .add _ _ _ => 5
  | .sub _ _ _ => 5
  | .and _ _ _ => 5
  | .or _ _ _ => 5
  | .xor _ _ _ => 5
  | .movc _ _ => 5
  | .load _ _ _ => 5
  | .store _ _ _ => 5
  | .bz _ => 5
  | .bnz _ => 5
  | .jump _ _ => 5
  | .halt => 5
  | .nop => 5
  | .empty => 5

/-- The operand of one source slot in a latch. -/
def Latch.operand (l : Latch) : Slot → Word
  | .rs1 => l.v1
  | .rs2 => l.v2

/-- R157's exception: a STORE's first source, its two source registers differing, is not searched in E. -/
def SkipsExecute (i : Instr) (slot : Slot) : Prop := slot = .rs1 ∧ ∃ a b imm, i = .store a b imm ∧ a ≠ b

/-- R157's search for a source in register `r` matches latch E. -/
def HitsExecute (i : Instr) (s : State) (slot : Slot) (r : Reg) : Prop := s.e.dest = some r ∧ ¬SkipsExecute i slot

/-- A latch that R157 searches after E produces `r`. -/
def HitsLater (s : State) (r : Reg) : Prop := s.m.dest = some r ∨ s.w.dest = some r

/-- The search gives the source a value (R157): it matches E, not with a LOAD (R155), or else M or W. -/
def Forwards (i : Instr) (s : State) (slot : Slot) (r : Reg) : Prop :=
  (HitsExecute i s slot r ∧ s.e.isLoad = false) ∨ (¬HitsExecute i s slot r ∧ HitsLater s r)

/-- What every step keeps (the statement StepKeepsLegal): the data memory is legal; a busy latch holds EMPTY and is not
stalled (40_pipeline_driver_fetch.md R104); a latch is stalled only where and as 10_state.md R30 says, with a reason in F
and D, E only by a MUL (42_execute_memory_writeback.md R183), M and W never (R196, R205); no wait release is left over; FETCHFAULT never passes
Execute (R185); a non-forwarding branch in E is resolvable (D24); and a branch or a FETCHFAULT carries its pc. -/
structure Legal (s : State) : Prop where
  turn : s.turn = .writeback
  memory : MemoryLegal s
  busyEmpty : ∀ st, (s.latch st).busy = true → (s.latch st).ins = .instr .empty ∧ (s.latch st).stalled = false
  fetchFree : s.f.busy = false
  fetchReason : s.f.stalled = true → s.f.reason = some .deferral
  decodeReason : s.d.stalled = true → s.d.reason ≠ none ∧ s.d.reason ≠ some .deferral
  noReason : ∀ st, (s.latch st).stalled = false ∨ st = .execute → (s.latch st).reason = none
  noRelease : ∀ st, (s.latch st).released = false
  heldByMul : s.e.stalled = true → ∃ rd rs1 rs2, s.e.ins = .instr (.mul rd rs1 rs2)
  backFlows : s.m.stalled = false ∧ s.w.stalled = false
  noLateFault : s.m.ins ≠ .fetchFault ∧ s.w.ins ≠ .fetchFault
  resolvable : s.cfg.fwd = false → s.e.isBranch = true → s.e.resolve = true
  carriesPc : ∀ st, (s.latch st).isBranch = true ∨ (s.latch st).ins = .fetchFault → (s.latch st).pc.isSome = true

/-- Nothing is in flight: the run goes on without a budget and is not complete, no action is pending, HALTED is 0, every
latch holds a bubble, none is stalled, Fetch is free and every register is valid. The reset state of a loaded program
without a cycle limit is one (70_reset_and_hazards.md R330). -/
structure Drained (s : State) : Prop where
  running : s.stop = none
  unbounded : s.cfg.cycleLimit = none
  incomplete : sint s.done ≠ (s.store.length : Int)
  noPending : s.pend = .none
  notHalted : s.halted = false
  bubbles : ∀ st, Bubble (s.latch st)
  flowing : ∀ st, (s.latch st).stalled = false
  fetchFree : s.f.busy = false
  allValid : ∀ r, s.isValid r = true

/-- The slot Fetch reads next is a slot of the store and decodes to `i` (20_memory.md R50, R51). -/
def NextIs (s : State) (i : Instr) : Prop :=
  addressOk s.cfg s.pc = true ∧ ∃ w, s.store[storeIndex s.cfg s.pc]? = some w ∧ decode w = .ok i

/-- As `NextIs`, and it is the last instruction of the store. -/
def LastIs (s : State) (i : Instr) : Prop := NextIs s i ∧ s.store.length = storeIndex s.cfg s.pc + 1

end Sys2Proof.Machine
end

