-- ==== Sys2Proof/Certificates/Slice0/Obligations.lean ====
section
/-! DEFINITION. The statements about the model. Each docstring names the rule of spec/ it states or rests on; a clause that
is the model's choice names its log entry. -/

open Sys2Proof Sys2Proof.Machine

/-! ## Encoding -/

/-- No bit of an encoding is dropped: decoding the word of any instruction gives it back (30_encoding.md R75, R76). -/
def Obligations.DecodeOfEncodeIsInstruction : Prop :=
  ∀ i : Instr, decode (encode i) = .ok i

/-- The decoder reads the fields where 30_encoding.md R75 puts them, gives each code of R76 its instruction, and refuses
exactly code 15. -/
def Obligations.DecoderReadsFieldsAtTheirBits : Prop :=
  (∀ w : Packed, (∃ i, decode w = .ok i) ↔ w.toNat / 2 ^ 60 ≠ 15) ∧
  ∀ (w : Packed) (i : Instr), decode w = .ok i →
    (encode i).toNat / 2 ^ 60 = w.toNat / 2 ^ 60 ∧
    w.toNat / 2 ^ 60 = (match i with
      | .add _ _ _ => 0
      | .sub _ _ _ => 1
      | .mul _ _ _ => 2
      | .and _ _ _ => 3
      | .or _ _ _ => 4
      | .xor _ _ _ => 5
      | .movc _ _ => 6
      | .load _ _ _ => 7
      | .store _ _ _ => 8
      | .bz _ => 9
      | .bnz _ => 10
      | .jump _ _ => 11
      | .halt => 12
      | .nop => 13
      | .empty => 14) ∧
    (∀ rd, Instr.dest i = some rd → rd.val = w.toNat / 2 ^ 56 % 16) ∧
    (∀ r, (Slot.rs1, r) ∈ Instr.sources i → r.val = w.toNat / 2 ^ 52 % 16) ∧
    (∀ r, (Slot.rs2, r) ∈ Instr.sources i → r.val = w.toNat / 2 ^ 48 % 16) ∧
    (i.toRecord.op.usesImm = true → BitVec.ofInt 32 i.toRecord.imm = BitVec.ofNat 32 w.toNat)

/-- The worked encodings of 30_encoding.md R81, both ways. -/
def Obligations.WorkedEncodings : Prop :=
  (decode 0x6100000000000005 = .ok (.movc 1 5) ∧ encode (.movc 1 5) = 0x6100000000000005) ∧
  (decode 0x0312000000000000 = .ok (.add 3 1 2) ∧ encode (.add 3 1 2) = 0x0312000000000000) ∧
  (decode 0x8010000000000000 = .ok (.store 1 0 0) ∧ encode (.store 1 0 0) = 0x8010000000000000) ∧
  (decode 0x9000000000000008 = .ok (.bz 8) ∧ encode (.bz 8) = 0x9000000000000008) ∧
  (decode 0xA0000000FFFFFFF8 = .ok (.bnz (-8)) ∧ encode (.bnz (-8)) = 0xA0000000FFFFFFF8) ∧
  (decode 0xB010000000000000 = .ok (.jump 1 0) ∧ encode (.jump 1 0) = 0xB010000000000000) ∧
  (decode 0xC000000000000000 = .ok .halt ∧ encode .halt = 0xC000000000000000)

/-- The records that 30_encoding.md R74 calls well formed are exactly the records of instructions, and the loader reads
each as that instruction. -/
def Obligations.WellFormedRecordsAreInstructions : Prop :=
  (∀ r : Record, r.wf = true ↔ ∃ i : Instr, i.toRecord = r) ∧
  ∀ (r : Record) (i : Instr), r.toInstr = some i ↔ i.toRecord = r

/-- A program with a reserved slot is refused at load, and a program without one, with legal parameters, starts from the
reset state (30_encoding.md R78, 70_reset_and_hazards.md R334). -/
def Obligations.LoaderRefusesReservedCode : Prop :=
  ∀ (cfg : Config) (store : List Packed) (init : Memory),
    (∀ k w, store[k]? = some w → w.toNat / 2 ^ 60 = 15 →
      (∀ j u, j < k → store[j]? = some u → u.toNat / 2 ^ 60 ≠ 15) →
      load cfg store init = .refused (.reservedOpcode k)) ∧
    ((∀ w ∈ store, w.toNat / 2 ^ 60 ≠ 15) → 100 ≤ cfg.dmemWords → cfg.base.toNat + 4 * store.length < 2 ^ 32 →
      init.wf = true → init.below cfg.dmemWords = true → load cfg store init = .next (State.resetWith cfg store init))

/-! ## Reset and the driver -/

/-- 70_reset_and_hazards.md R330: the reset value of every piece of state. -/
def Obligations.ResetLeavesTheseValues : Prop :=
  ∀ (cfg : Config) (store : List Packed) (init : Memory) (s : State), s = State.resetWith cfg store init →
    (∀ r, s.reg r = 0 ∧ s.isValid r = true) ∧ s.flag = none ∧ s.pc = cfg.base ∧ s.clock = 0 ∧ s.done = 0 ∧
    s.halted = false ∧ s.pend = .none ∧ s.lu = false ∧ s.prevRd = none ∧ s.dm = init ∧ s.cfg = cfg ∧ s.store = store ∧
    (∀ st, (s.latch st).ins = .instr .empty ∧ (s.latch st).pc = none ∧ (s.latch st).v1 = 0 ∧ (s.latch st).v2 = 0 ∧
      (s.latch st).buf = 0 ∧ (s.latch st).addr = 0 ∧ (s.latch st).stalled = false ∧ (s.latch st).reason = none ∧
      (s.latch st).released = false ∧ (s.latch st).wait = none ∧ (s.latch st).resolve = false ∧
      (s.latch st).snap = none ∧ ((s.latch st).busy = true ↔ st ≠ .fetch))

/-- 70_reset_and_hazards.md R333, for every configuration whose budget admits a cycle. -/
def Obligations.EmptyProgramCompletesAtClockOne : Prop :=
  ∀ (cfg : Config) (init : Memory), cfg.cycleLimit ≠ some 0 →
    ∃ t, step (State.resetWith cfg [] init) = .next t ∧ t.clock = 1 ∧ t.stop = some .complete ∧
      (∀ r, t.reg r = 0) ∧ t.dm = init

/-- 40_pipeline_driver_fetch.md R101: the budget test before the cycle, the completion test after it. That a stopped run
stays as it is, is log 9's reading of "the core's state is frozen". -/
def Obligations.StepIsTheDriversLoop : Prop :=
  ∀ s : State,
    (∀ r, s.stop = some r → step s = .next s) ∧
    (∀ l, s.stop = none → s.cfg.cycleLimit = some l → l ≤ s.clock → step s = .next { s with stop := some .budget }) ∧
    (s.stop = none → (∀ l, s.cfg.cycleLimit = some l → s.clock < l) →
      (∀ t, cycle s = .next t →
        step s = .next { t with stop := if sint t.done = (t.store.length : Int) then some .complete else t.stop }) ∧
      (∀ r, cycle s = .fault r → step s = .fault r))

/-- 40_pipeline_driver_fetch.md R100: a cycle is the five turns in their fixed order, each on what the one before it left,
and then the clock. -/
def Obligations.CycleRunsTheFiveTurnsInOrder : Prop :=
  ∀ s t : State, cycle s = .next t ↔
    ∃ a b c d, writebackStage s = .next a ∧ memoryStage a = .next b ∧ executeStage b = .next c ∧
      decodeStage c = .next d ∧
      t = { fetchStage d with clock := (fetchStage d).clock + 1, turn := .writeback }

/-- Each stage's turn runs the instruction its latch holds: what is around exec is the guard, and in Memory and Execute the
copy onward (42_execute_memory_writeback.md R180, R195, R205; 41_decode_hazards.md R140). A busy W does nothing, a busy
E only clears the load-use flag, and a D that is busy, or stalled after the pre-checks, gets nothing beyond them
(40_pipeline_driver_fetch.md R104, R181, R146). A FETCHFAULT record in D goes on into a free E, or stalls behind a held
one (20_memory.md R51, R158, R159). -/
def Obligations.StagesRunTheirResident : Prop :=
  ∀ s : State,
    (s.w.busy = true → writebackStage s = .next { s with turn := .writeback }) ∧
    (s.e.busy = true → executeStage s = .next { s with turn := .execute, lu := false }) ∧
    (∀ i : Instr, s.w.busy = false → s.w.ins = .instr i → writebackStage s = exec i { s with turn := .writeback }) ∧
    (∀ (i : Instr) (u : State), s.m.busy = false → s.e.stalled = false → s.m.ins = .instr i →
      exec i { s with turn := .memory } = .next u →
      memoryStage s = .next { applyPending u with w := (applyPending u).m.copy }) ∧
    (∀ (i : Instr) (u : State), s.e.busy = false → s.e.stalled = false → s.e.ins = .instr i →
      (s.d.stalled = true → s.d.reason = some .downstream ∨ Instr.isBranch i = true) →
      exec i { s with turn := .execute, lu := false } = .next u →
      executeStage s = .next (if u.e.stalled then u else { u with m := u.e.copy })) ∧
    ∀ p : State, p = preChecks { s with turn := .decode } →
      (p.d.busy = true ∨ p.d.stalled = true → decodeStage s = .next p) ∧
      (p.d.busy = false → p.d.stalled = false →
        (∀ i : Instr, p.d.ins = .instr i → decodeStage s = exec i p) ∧
        (p.d.ins = .fetchFault → p.e.stalled = false → decodeStage s = .next { p with e := p.d.copy }) ∧
        (p.d.ins = .fetchFault → p.e.stalled = true →
          decodeStage s = .next { p with d := { p.d with stalled := true, reason := some .downstream } }))

/-- The instruction at pc goes from the store into the pipeline: in a drained machine, two steps bring it, decoded, with its
operands read and its destination claimed, into latch E, and the next cycle's Execute turn is exec of it
(70_reset_and_hazards.md R332). A non-forwarding branch waits one cycle more (41_decode_hazards.md R156) and has its
own statement, NonForwardingBranchWaitsThenCapturesFlag. -/
def Obligations.FetchedInstructionReachesExecute : Prop :=
  ∀ (i : Instr) (s : State), Drained s → NextIs s i → (s.cfg.fwd = true ∨ Instr.isBranch i = false) →
    ∃ b, steps 2 s = .next b ∧
      b.e.ins = .instr i ∧ b.e.pc = some s.pc ∧ b.e.busy = false ∧ b.e.stalled = false ∧
      (∀ r, (Slot.rs1, r) ∈ Instr.sources i → b.e.v1 = s.reg r) ∧
      (∀ r, (Slot.rs2, r) ∈ Instr.sources i → b.e.v2 = s.reg r) ∧
      (∀ r, b.isValid r = decide (Instr.dest i ≠ some r)) ∧ SameRegs s b ∧ SameWords s b ∧ b.clock = s.clock + 2 ∧
      ∃ c, andThen (writebackStage b) memoryStage = .next c ∧ c.e = b.e ∧
        executeStage c = andThen (exec i { c with turn := .execute, lu := false })
          (fun u => .next (if u.e.stalled then u else { u with m := u.e.copy }))

/-! ## Fetch -/

/-- 20_memory.md R51, the store read. That `a < BASE` compares unsigned is log 7's reading. -/
def Obligations.StoreReadByAddress : Prop :=
  ∀ (s : State) (a : Word),
    (a.toNat < s.cfg.base.toNat → isRead s a = some .fetchFault) ∧
    (s.cfg.base.toNat ≤ a.toNat →
      ((a.toNat - s.cfg.base.toNat) % 4 ≠ 0 → isRead s a = some .fetchFault) ∧
      ((a.toNat - s.cfg.base.toNat) % 4 = 0 →
        (s.store.length ≤ (a.toNat - s.cfg.base.toNat) / 4 → isRead s a = some (.instr .empty)) ∧
        ∀ w, s.store[(a.toNat - s.cfg.base.toNat) / 4]? = some w →
          (∀ i, decode w = .ok i → isRead s a = some (.instr i)) ∧
          (w.toNat / 2 ^ 60 = 15 → isRead s a = none)))

/-- 40_pipeline_driver_fetch.md R111 and R112, the normal path: the record at pc goes into F (EMPTY after a HALT), pc
grows by 4, and F goes on into D or defers to a stalled D; an undecodable slot changes nothing. -/
def Obligations.FetchNormalPath : Prop :=
  ∀ s : State, s.f.busy = false → s.f.stalled = false →
    (isRead s s.pc = none → fetchStage s = { s with turn := .fetch }) ∧
    ∀ (r : Resident) (l : Latch), isRead s s.pc = some r →
      l = (if s.halted then Latch.empty else { Latch.empty with ins := r, pc := some s.pc }) →
      (s.d.stalled = false → fetchStage s = { s with turn := .fetch, pc := s.pc + 4, f := l, d := l }) ∧
      (s.d.stalled = true → fetchStage s =
        { s with turn := .fetch, pc := s.pc + 4, f := { l with stalled := true, reason := some .deferral } })

/-- 40_pipeline_driver_fetch.md R110 and R113: the catch-up path reads nothing and leaves pc, and in every other case
Fetch does nothing. -/
def Obligations.FetchCatchUpOrHold : Prop :=
  ∀ s : State,
    (s.f.stalled = true → s.f.reason = some .deferral → s.d.stalled = false →
      fetchStage s = { s with
        turn := .fetch
        f := { s.f with stalled := false, reason := none }
        d := s.f.copy }) ∧
    (s.f.stalled = true → (s.f.reason ≠ some .deferral ∨ s.d.stalled = true) →
      fetchStage s = { s with turn := .fetch }) ∧
    (s.f.stalled = false → s.f.busy = true → fetchStage s = { s with turn := .fetch })

/-! ## Decode -/

/-- 41_decode_hazards.md R141 to R145: a stalled D is released exactly when the condition of one of the four pre-checks
holds, taken in their order; the release clears the stall and the reason, P3's marks it, and nothing else changes; a D
that is not stalled is left alone. -/
def Obligations.PreChecksReleaseExactly : Prop :=
  ∀ s : State,
    (s.d.stalled = false → preChecks s = s) ∧
    (s.d.stalled = true →
      ∀ P1 P2 P3 P4 : Prop,
      (P1 ↔ s.d.sources ≠ [] ∧ ∀ p ∈ s.d.sources, s.isValid p.2 = true) →
      (P2 ↔ s.d.reason = some .downstream ∧ s.e.stalled = false) →
      (P3 ↔ s.cfg.fwd = false ∧ s.d.isBranch = true ∧ s.d.reason = some .branchWait ∧
        ∀ r, s.d.wait = some r → s.isValid r = true) →
      (P4 ↔ s.d.reason = some .loadUse ∧ s.lu = false) →
      (P1 ∨ P2 ∨ P4 → preChecks s = { s with d := { s.d with stalled := false, reason := none } }) ∧
      (P3 ∧ ¬P1 ∧ ¬P2 →
        preChecks s = { s with d := { s.d with stalled := false, reason := none, released := true } }) ∧
      (¬P1 → ¬P2 → ¬P3 → ¬P4 → preChecks s = s))

/-- 41_decode_hazards.md R151: a validity bit changes in Decode's turn only by a claim made at a dispatch, so none changes
in a turn that ends in a stall. -/
def Obligations.ClaimOnlyAtDispatch : Prop :=
  ∀ s t : State, decodeStage s = .next t →
    (t.d.stalled = true → ∀ r, t.isValid r = s.isValid r) ∧
    (∀ r, t.isValid r ≠ s.isValid r → s.d.dest = some r ∧ t.isValid r = false ∧ t.e = t.d.copy)

/-- 41_decode_hazards.md R150 with FWD = 0, and R159: an instruction with an invalid source only stalls without forwarding,
and behind a held E nothing is dispatched in either mode; with every source valid, or forwarded in forwarding mode (R157),
it is the downstream stall. A non-forwarding branch has its own statement, NonForwardingBranchWaitsThenCapturesFlag. -/
def Obligations.DecodeStallsWithoutDispatch : Prop :=
  (∀ (i : Instr) (s : State) (slot : Slot) (r : Reg), s.turn = .decode → s.cfg.fwd = false →
    (slot, r) ∈ Instr.sources i → s.isValid r = false →
    exec i s = .next { s with d := { s.d with stalled := true, reason := some .operand } }) ∧
  (∀ (i : Instr) (s t : State), s.turn = .decode → s.e.stalled = true → exec i s = .next t →
    t.d.stalled = true ∧ t.e = s.e ∧ t.valid = s.valid ∧ t.prevRd = s.prevRd) ∧
  (∀ (i : Instr) (s : State), s.turn = .decode → s.e.stalled = true →
    (∀ p ∈ Instr.sources i, s.isValid p.2 = true ∨ (s.cfg.fwd = true ∧ Forwards i s p.1 p.2)) →
    (s.cfg.fwd = true ∨ Instr.isBranch i = false) →
    ∃ t, exec i s = .next t ∧ t.d.reason = some .downstream ∧
      t = { s with d := { s.d with v1 := t.d.v1, v2 := t.d.v2, stalled := true, reason := some .downstream } })

/-- 41_decode_hazards.md R152 and R158: with every source valid and E free, an instruction other than a non-forwarding
branch reads its operands from the register file, claims its destination and is copied into E; ADD, SUB and MUL set
prev_rd. This is each instruction's Decode turn when nothing stands in its way. -/
def Obligations.DispatchReadsClaimsAndCopies : Prop :=
  ∀ (i : Instr) (s : State), s.turn = .decode → s.e.stalled = false → s.d.stalled = false →
    (∀ p ∈ Instr.sources i, s.isValid p.2 = true) → (s.cfg.fwd = true ∨ Instr.isBranch i = false) →
    ∃ t, exec i s = .next t ∧
      (∀ r, (Slot.rs1, r) ∈ Instr.sources i → t.e.v1 = s.reg r) ∧
      (∀ r, (Slot.rs2, r) ∈ Instr.sources i → t.e.v2 = s.reg r) ∧
      t.e = t.d.copy ∧ t.d = { s.d with v1 := t.d.v1, v2 := t.d.v2 } ∧
      (∀ r, t.isValid r = (s.isValid r && decide (Instr.dest i ≠ some r))) ∧
      t.prevRd = (match i with
        | .add rd _ _ => some rd
        | .sub rd _ _ => some rd
        | .mul rd _ _ => some rd
        | _ => s.prevRd) ∧
      t = { s with d := t.d, e := t.e, valid := t.valid, prevRd := t.prevRd }

/-- 41_decode_hazards.md R157: an invalid source of an instruction that dispatches holds the buffer of the first producer
in the order E, M, W (M, W for a STORE's first source when its two differ). -/
def Obligations.ForwardedValueComesFromYoungestProducer : Prop :=
  ∀ (i : Instr) (s t : State) (slot : Slot) (r : Reg), s.turn = .decode → s.cfg.fwd = true →
    (slot, r) ∈ Instr.sources i → s.isValid r = false → s.d.stalled = false →
    exec i s = .next t → t.d.stalled = false →
    (s.e.dest = some r → ¬SkipsExecute i slot → s.e.isLoad = false ∧ t.e.operand slot = s.e.buf) ∧
    ((s.e.dest ≠ some r ∨ SkipsExecute i slot) → s.m.dest = some r → t.e.operand slot = s.m.buf) ∧
    ((s.e.dest ≠ some r ∨ SkipsExecute i slot) → s.m.dest ≠ some r →
      s.w.dest = some r ∧ t.e.operand slot = s.w.buf)

/-- 41_decode_hazards.md R155: an invalid source whose search first matches a LOAD in E, the invalid sources before it
having been forwarded, enters the load-use stall; only D's operand values change besides. -/
def Obligations.LoadInExecuteCausesLoadUseStall : Prop :=
  ∀ (i : Instr) (s : State) (before after : List (Slot × Reg)) (slot : Slot) (r : Reg), s.turn = .decode →
    s.cfg.fwd = true → (Instr.sources i).filter (fun p => !s.isValid p.2) = before ++ (slot, r) :: after →
    (∀ p ∈ before, Forwards i s p.1 p.2) → HitsExecute i s slot r → s.e.isLoad = true →
    ∃ t, exec i s = .next t ∧ t = { s with
      d := { s.d with v1 := t.d.v1, v2 := t.d.v2, stalled := true, reason := some .loadUse }
      lu := true }

/-- 41_decode_hazards.md R157 with hit = NONE: an invalid source that no searched latch produces, the invalid sources before
it having been forwarded, enters the operand stall in forwarding mode too; only D's operand values change besides. Where
every invalid source is forwarded and E is free, the instruction dispatches in this turn: a valid source keeps its
register's value (R154), the destination is claimed, ADD, SUB and MUL set prev_rd, and D is copied into E (R158). -/
def Obligations.ForwardingStallsOrDispatches : Prop :=
  (∀ (i : Instr) (s : State) (before after : List (Slot × Reg)) (slot : Slot) (r : Reg), s.turn = .decode →
    s.cfg.fwd = true → (Instr.sources i).filter (fun p => !s.isValid p.2) = before ++ (slot, r) :: after →
    (∀ p ∈ before, Forwards i s p.1 p.2) → ¬HitsExecute i s slot r → ¬HitsLater s r →
    ∃ t, exec i s = .next t ∧
      t = { s with d := { s.d with v1 := t.d.v1, v2 := t.d.v2, stalled := true, reason := some .operand } }) ∧
  ∀ (i : Instr) (s : State), s.turn = .decode → s.cfg.fwd = true → s.e.stalled = false →
    (∀ p ∈ Instr.sources i, s.isValid p.2 = true ∨ Forwards i s p.1 p.2) →
    ∃ t, exec i s = .next t ∧
      (∀ p ∈ Instr.sources i, s.isValid p.2 = true → t.e.operand p.1 = s.reg p.2) ∧
      t.e = t.d.copy ∧ t.d = { s.d with v1 := t.d.v1, v2 := t.d.v2 } ∧
      (∀ r, t.isValid r = (s.isValid r && decide (Instr.dest i ≠ some r))) ∧
      t.prevRd = (match i with
        | .add rd _ _ => some rd
        | .sub rd _ _ => some rd
        | .mul rd _ _ => some rd
        | _ => s.prevRd) ∧
      t = { s with d := t.d, e := t.e, valid := t.valid, prevRd := t.prevRd }

/-- 41_decode_hazards.md R161: one cycle after a load-use stall the consumer is in E with the loaded word. The state is
that of R161's cycle k at its end: the LOAD in M, its copy in E, the consumer stalled in D. Its other source, if it has
one, is valid or has its producer in W, which retires in this step (95_test_vectors.md P4); it reads the register as
Writeback leaves it. -/
def Obligations.LoadUseStallLastsOneCycle : Prop :=
  ∀ (i : Instr) (rd rs1 : Reg) (imm : Word) (s : State),
    s.stop = none → s.cfg.cycleLimit = none → s.cfg.fwd = true → s.pend = .none →
    s.m.ins = .instr (.load rd rs1 imm) → s.m.busy = false →
    0 ≤ sint s.m.addr → sint s.m.addr < (s.cfg.dmemWords : Int) →
    s.e.ins = .instr (.load rd rs1 imm) → s.e.busy = false → s.e.stalled = false →
    s.d.ins = .instr i → s.d.busy = false → s.d.stalled = true → s.d.reason = some .loadUse →
    s.isValid rd = false →
    (∃ slot, (slot, rd) ∈ Instr.sources i) → (∀ p ∈ Instr.sources i, p.2 = rd ∨ s.isValid p.2 = true ∨ (s.w.busy = false ∧ s.w.dest = some p.2)) →
    ∃ t, step s = .next t ∧ t.e.ins = .instr i ∧ t.e.busy = false ∧ t.e.stalled = false ∧ Bubble t.m ∧
      (∀ slot, (slot, rd) ∈ Instr.sources i → t.e.operand slot = s.word (sint s.m.addr).toNat) ∧
      (∀ p ∈ Instr.sources i, p.2 ≠ rd →
        t.e.operand p.1 = (if s.w.busy = false ∧ s.w.dest = some p.2 then s.w.buf else s.reg p.2)) ∧ t.lu = false

/-- 41_decode_hazards.md R156 with R143: a non-forwarding BZ or BNZ stalls on prev_rd at its first Decode turn; once that
register is valid, or there is none, its next turn captures FLAG and dispatches it as resolvable, D's copy with its pc and
immediate into a free E (R158), or stalls it behind a held one (R159); nothing else changes. -/
def Obligations.NonForwardingBranchWaitsThenCapturesFlag : Prop :=
  ∀ (i : Instr) (s : State), Instr.isBranch i = true → s.d.ins = .instr i → s.cfg.fwd = false → s.d.busy = false →
    (s.d.stalled = false → s.d.released = false →
      decodeStage s = .next { s with
        turn := .decode
        d := { s.d with stalled := true, reason := some .branchWait, wait := s.prevRd } }) ∧
    (s.d.stalled = true → s.d.reason = some .branchWait → (∀ r, s.d.wait = some r → s.isValid r = true) →
      ∀ d : Latch, d = { s.d with
          stalled := false
          reason := none
          released := false
          resolve := true
          snap := s.flag } →
        d.copy.ins = .instr i ∧ d.copy.pc = s.d.pc ∧ d.copy.resolve = true ∧ d.copy.snap = s.flag ∧
        (s.e.stalled = false → decodeStage s = .next { s with turn := .decode, d := d, e := d.copy }) ∧
        (s.e.stalled = true →
          decodeStage s = .next { s with turn := .decode, d := { d with stalled := true, reason := some .downstream } }))

/-- 41_decode_hazards.md R163: there is no write-after-write interlock. Whether the destination of an instruction that
does not read it is valid makes no difference to what Decode does. -/
def Obligations.NoWriteAfterWriteInterlock : Prop :=
  ∀ (i : Instr) (s : State) (rd : Reg) (b : Bool), s.turn = .decode → Instr.dest i = some rd →
    (∀ slot, (slot, rd) ∉ Instr.sources i) →
    ∃ t u, exec i s = .next t ∧ exec i (s.setValid rd b) = .next u ∧
      u.d = t.d ∧ u.e = t.e ∧ u.lu = t.lu ∧ u.prevRd = t.prevRd

/-! ## Execute -/

/-- ADD, SUB, AND, OR, XOR and MOVC in Execute (43_alu.md, the Execute lines of its rules): the result goes into E.buf and
nothing else changes. -/
def Obligations.AluInstructionsCompute : Prop :=
  ∀ (rd rs1 rs2 : Reg) (imm : Word) (s : State), s.turn = .execute →
    exec (.add rd rs1 rs2) s = .next { s with e := { s.e with buf := s.e.v1 + s.e.v2 } } ∧
    exec (.sub rd rs1 rs2) s = .next { s with e := { s.e with buf := s.e.v1 - s.e.v2 } } ∧
    exec (.and rd rs1 rs2) s = .next { s with e := { s.e with buf := s.e.v1 &&& s.e.v2 } } ∧
    exec (.or rd rs1 rs2) s = .next { s with e := { s.e with buf := s.e.v1 ||| s.e.v2 } } ∧
    exec (.xor rd rs1 rs2) s = .next { s with e := { s.e with buf := s.e.v1 ^^^ s.e.v2 } } ∧
    exec (.movc rd imm) s = .next { s with e := { s.e with buf := imm } }

/-- 42_execute_memory_writeback.md R183 and R184: the first cycle of a MUL computes the product, holds E and copies nothing;
in the next the held E is released and copied, its buffer unchanged; and no stage but Execute, on a MUL, ever sets
E.stalled. -/
def Obligations.MulHoldsExecuteForTwoCycles : Prop :=
  (∀ (rd rs1 rs2 : Reg) (s : State), s.turn = .execute →
    exec (.mul rd rs1 rs2) s = .next { s with e := { s.e with buf := s.e.v1 * s.e.v2, stalled := true } }) ∧
  (∀ (rd rs1 rs2 : Reg) (s : State), s.e.ins = .instr (.mul rd rs1 rs2) → s.e.busy = false → s.e.stalled = false →
    (s.d.stalled = true → s.d.reason = some .downstream) →
    executeStage s = .next { s with
      turn := .execute
      lu := false
      e := { s.e with buf := s.e.v1 * s.e.v2, stalled := true } }) ∧
  (∀ s : State, s.e.stalled = true → s.e.busy = false →
    executeStage s = .next { s with
      turn := .execute
      lu := false
      e := { s.e with stalled := false }
      m := s.e.copy }) ∧
  (∀ s t : State, executeStage s = .next t → t.e.stalled = true → s.e.stalled = false →
    ∃ rd rs1 rs2, s.e.ins = .instr (.mul rd rs1 rs2)) ∧
  (∀ s t : State, writebackStage s = .next t → t.e.stalled = true → s.e.stalled = true) ∧
  (∀ s t : State, memoryStage s = .next t → t.e.stalled = true → s.e.stalled = true) ∧
  (∀ s t : State, decodeStage s = .next t → t.e.stalled = true → s.e.stalled = true) ∧
  (∀ s : State, (fetchStage s).e.stalled = true → s.e.stalled = true)

/-- 42_execute_memory_writeback.md R182: behind a D stalled for any reason but DOWNSTREAM, E, unless it holds a branch,
becomes a NOP with every other field at its reset value, M its copy, and no register is re-validated. -/
def Obligations.UpstreamBlockedClearsExecute : Prop :=
  ∀ s : State, s.e.busy = false → s.e.stalled = false → s.e.isBranch = false → s.d.stalled = true →
    s.d.reason ≠ some .downstream →
    executeStage s = .next { s with
      turn := .execute
      lu := false
      e := { Latch.empty with ins := .instr .nop }
      m := { Latch.empty with ins := .instr .nop } }

/-- 42_execute_memory_writeback.md R187: Execute writes no register, no V bit and no data memory; what it may change is E,
M (by the copy), pc, done, pend, HALTED, lu, and F and D through HALT (and the draw counter, the model's own, log 5). -/
def Obligations.ExecuteWritesNoRegisterNoMemory : Prop :=
  ∀ s t : State, executeStage s = .next t →
    t.x = s.x ∧ t.valid = s.valid ∧ t.dm = s.dm ∧ t.flag = s.flag ∧ t.clock = s.clock ∧ t.prevRd = s.prevRd ∧
    t.w = s.w ∧ SameInputs s t ∧ t.stop = s.stop ∧ t.lu = false ∧
    (s.e.ins ≠ .instr .halt → t.f = s.f ∧ t.d = s.d ∧ t.halted = s.halted) ∧
    (s.e.isBranch = false → t.pc = s.pc)

/-- BZ and BNZ in Execute (45_control.md, the branch rule): the value tested is the buffer of a producer in M with
forwarding, the snapshot without, and any value at all where there is none (log 5); a taken branch redirects pc to
E.pc + imm - 4, adds trunc(imm / 4) - 1 to done and leaves a flush pending; nothing else changes. -/
def Obligations.BranchesResolveInExecute : Prop :=
  ∀ (imm p : Word) (s : State), s.turn = .execute → s.e.pc = some p →
    ∃ (v : Word) (n : Nat),
      (s.cfg.fwd = true → s.m.dest ≠ none → v = s.m.buf ∧ n = s.draws) ∧
      (s.cfg.fwd = false → ∀ u, s.e.snap = some u → v = u ∧ n = s.draws) ∧
      ∀ (taken : State), taken = { s with
          draws := n
          pc := p + imm - 4
          done := s.done + BitVec.ofInt 32 (Int.tdiv (sint imm) 4 - 1)
          pend := .flush } →
        exec (.bz imm) s = .next
          (if (s.cfg.fwd = true ∨ s.e.resolve = true) ∧ v = 0 then taken else { s with draws := n }) ∧
        exec (.bnz imm) s = .next
          (if (s.cfg.fwd = true ∨ s.e.resolve = true) ∧ v ≠ 0 then taken else { s with draws := n })

/-- JUMP in Execute (45_control.md): only the pending action is set, to E.v1 + imm. -/
def Obligations.JumpLeavesItsTargetPending : Prop :=
  ∀ (rs1 : Reg) (imm : Word) (s : State), s.turn = .execute →
    exec (.jump rs1 imm) s = .next { s with pend := .jump (s.e.v1 + imm) }

/-- HALT in Execute (45_control.md): F and D become EMPTY, HALTED is set, done becomes N - 2, no register is re-validated,
and the Execute stage copies it into M. -/
def Obligations.HaltEmptiesFetchAndDecode : Prop :=
  (∀ s : State, s.turn = .execute →
    exec .halt s = .next { s with
      f := Latch.empty
      d := Latch.empty
      halted := true
      done := BitVec.ofInt 32 ((s.store.length : Int) - 2) }) ∧
  ∀ s : State, s.e.ins = .instr .halt → s.e.busy = false → s.e.stalled = false →
    (s.d.stalled = true → s.d.reason = some .downstream) →
    ∃ t, executeStage s = .next t ∧ Bubble t.f ∧ Bubble t.d ∧ t.halted = true ∧
      t.done = BitVec.ofInt 32 ((s.store.length : Int) - 2) ∧ t.m = s.e.copy ∧ t.valid = s.valid ∧ t.pc = s.pc

/-- NOP and EMPTY (45_control.md): no effect in Execute and Memory; at retirement only FLAG is reset. -/
def Obligations.BubblesOnlyResetFlag : Prop :=
  ∀ s : State,
    (s.turn = .execute ∨ s.turn = .memory → exec .nop s = .next s ∧ exec .empty s = .next s) ∧
    (s.turn = .writeback → exec .nop s = .next { s with flag := none } ∧ exec .empty s = .next { s with flag := none })

/-- 60_exceptions.md R301: Execute running a FETCHFAULT record raises FetchAddressFault with its pc; one that is cleared
or held back raises nothing. The state it leaves is the one Execute was given (log 11). -/
def Obligations.FetchFaultRecordFaultsInExecute : Prop :=
  ∀ s : State, s.e.ins = .fetchFault → s.e.busy = false → s.e.stalled = false →
    ((s.d.stalled = true → s.d.reason = some .downstream) →
      executeStage s = .fault (.fetchAddressFault s.e.pc s)) ∧
    (s.d.stalled = true → s.d.reason ≠ some .downstream → ∃ t, executeStage s = .next t ∧ Bubble t.e ∧ Bubble t.m)

/-! ## Memory -/

/-- LOAD (44_loadstore.md): Execute computes the word index (and E.buf holds any value until the Memory turn, log 6), the
Memory turn reads the word. -/
def Obligations.LoadComputesAddressThenReads : Prop :=
  ∀ (rd rs1 : Reg) (imm : Word) (s : State),
    (s.turn = .execute → ∃ v n, exec (.load rd rs1 imm) s =
      .next { s with e := { s.e with addr := s.e.v1 + imm, buf := v }, draws := n }) ∧
    (s.turn = .memory → 0 ≤ sint s.m.addr → sint s.m.addr < (s.cfg.dmemWords : Int) →
      exec (.load rd rs1 imm) s = .next { s with m := { s.m with buf := s.word (sint s.m.addr).toNat } })

/-- STORE (44_loadstore.md): Execute computes the word index from the base v2 and re-resolves the data from M, then W; the
Memory turn writes it to that word and to no other. -/
def Obligations.StoreResolvesDataThenWrites : Prop :=
  ∀ (rs1 rs2 : Reg) (imm : Word) (s : State),
    (s.turn = .execute → exec (.store rs1 rs2 imm) s = .next { s with
      e := { s.e with
        addr := s.e.v2 + imm
        v1 := if s.m.dest = some rs1 then s.m.buf else if s.w.dest = some rs1 then s.w.buf else s.e.v1 } }) ∧
    (s.turn = .memory → MemoryLegal s → 0 ≤ sint s.m.addr → sint s.m.addr < (s.cfg.dmemWords : Int) →
      ∃ t, exec (.store rs1 rs2 imm) s = .next t ∧ t.word (sint s.m.addr).toNat = s.m.v1 ∧
        SameWordsBut (sint s.m.addr).toNat s t ∧ MemoryLegal t ∧ t = { s with dm := t.dm })

/-- 20_memory.md R53 and 60_exceptions.md R302: outside DM a LOAD or a STORE raises DataAddressFault with its address, the
state as the Memory turn found it; the Memory stage raises it too. -/
def Obligations.DataAddressOutsideMemoryFaults : Prop :=
  ∀ (rd rs1 rs2 : Reg) (imm : Word) (s : State),
    (sint s.m.addr < 0 ∨ (s.cfg.dmemWords : Int) ≤ sint s.m.addr) →
    (s.turn = .memory → exec (.load rd rs1 imm) s = .fault (.dataAddressFault s.m.addr s) ∧
      exec (.store rs1 rs2 imm) s = .fault (.dataAddressFault s.m.addr s)) ∧
    ((s.m.ins = .instr (.load rd rs1 imm) ∨ s.m.ins = .instr (.store rs1 rs2 imm)) → s.m.busy = false →
      s.e.stalled = false → memoryStage s = .fault (.dataAddressFault s.m.addr { s with turn := .memory }))

/-- 44_loadstore.md R243: a LOAD whose Memory turn comes after a STORE's to the same word, with no store between, reads the
stored value. -/
def Obligations.LoadReadsLastStoredWord : Prop :=
  ∀ (rs1 rs2 rd rb : Reg) (imm imm' : Word) (s t u : State), MemoryLegal s → s.turn = .memory →
    exec (.store rs1 rs2 imm) s = .next t →
    u.dm = t.dm → u.cfg = s.cfg → u.turn = .memory → u.m.addr = s.m.addr →
    ∃ v, exec (.load rd rb imm') u = .next v ∧ v.m.buf = s.m.v1

/-- 42_execute_memory_writeback.md R196, R197 and R198: a busy M does nothing, a pending action waits, W is not written; a
free M always ends in W a copy of M; and while Execute holds a MUL, the stale M makes no access and is flushed to a
NOP. -/
def Obligations.MemoryGuardStaleLatchAndCopy : Prop :=
  ∀ s : State,
    (s.m.busy = true → memoryStage s = .next { s with turn := .memory }) ∧
    (∀ t, s.m.busy = false → memoryStage s = .next t → t.w = t.m.copy ∧ t.pend = .none) ∧
    (s.m.busy = false → s.e.stalled = true →
      ∃ t, memoryStage s = .next t ∧ t.dm = s.dm ∧ t.m = { Latch.empty with ins := .instr .nop } ∧ t.w = t.m)

/-- 42_execute_memory_writeback.md R201: a pending branch flush makes F, D and E NOPs, re-validates the destination claimed
by the instruction in E, and is consumed. -/
def Obligations.BranchFlushDiscardsYounger : Prop :=
  ∀ s t : State, s.m.busy = false → s.pend = .flush → memoryStage s = .next t →
    t.f = { Latch.empty with ins := .instr .nop } ∧ t.d = t.f ∧ t.e = t.f ∧ t.pend = .none ∧
    (∀ r, t.isValid r = (decide (s.e.dest = some r) || s.isValid r)) ∧
    t.pc = s.pc ∧ t.done = s.done ∧ SameRegs s t ∧ t.flag = s.flag

/-- 42_execute_memory_writeback.md R202: a pending jump flushes as a branch does, sets pc to its target and done to
floor((sint(t) - BASE) / 4) - 1, and clears the load-use flag. That the difference is one of 32-bit values, read as two's
complement, is log 7's reading (DEDUCED). For the target of index k, below 2^29, done becomes k - 1 whatever BASE is
(45_control.md R254, 10_state.md R27). -/
def Obligations.JumpIsAppliedByMemory : Prop :=
  ∀ (a : Word) (s t : State), s.m.busy = false → s.pend = .jump a → memoryStage s = .next t →
    t.f = { Latch.empty with ins := .instr .nop } ∧ t.d = t.f ∧ t.e = t.f ∧ t.pend = .none ∧ t.lu = false ∧
    t.pc = a ∧ t.done = BitVec.ofInt 32 (sint (a - s.cfg.base) / 4 - 1) ∧
    (∀ k : Nat, k < 2 ^ 29 → a = s.cfg.base + BitVec.ofNat 32 (4 * k) → t.done = BitVec.ofInt 32 ((k : Int) - 1)) ∧
    (∀ r, t.isValid r = (decide (s.e.dest = some r) || s.isValid r)) ∧ SameRegs s t ∧ t.flag = s.flag

/-! ## Writeback -/

/-- 42_execute_memory_writeback.md R206: Writeback writes W.buf into the destination of the instruction in W, and no other
stage writes a register. -/
def Obligations.RegisterFileWrittenByWritebackOnly : Prop :=
  (∀ s t : State, writebackStage s = .next t →
    ∀ r, t.reg r = if s.w.busy = false ∧ s.w.dest = some r then s.w.buf else s.reg r) ∧
  (∀ s t : State, memoryStage s = .next t → SameRegs s t) ∧
  (∀ s t : State, executeStage s = .next t → SameRegs s t) ∧
  (∀ s t : State, decodeStage s = .next t → SameRegs s t) ∧
  (∀ s : State, SameRegs s (fetchStage s))

/-- 42_execute_memory_writeback.md R207: Writeback re-validates the destination unless E holds a younger claim on it. -/
def Obligations.WritebackRevalidatesUnlessClaimed : Prop :=
  ∀ s t : State, writebackStage s = .next t →
    ∀ r, t.isValid r = if s.w.busy = false ∧ s.w.dest = some r ∧ s.e.dest ≠ some r then true else s.isValid r

/-- 42_execute_memory_writeback.md R208: FLAG is the committed value after ADD, SUB and MUL, NONE after everything else. -/
def Obligations.FlagHoldsArithmeticResultOnly : Prop :=
  ∀ s t : State, writebackStage s = .next t → s.w.busy = false →
    (∀ rd a b, s.w.ins = .instr (.add rd a b) ∨ s.w.ins = .instr (.sub rd a b) ∨ s.w.ins = .instr (.mul rd a b) →
      t.flag = some s.w.buf) ∧
    ((∀ rd a b, s.w.ins ≠ .instr (.add rd a b) ∧ s.w.ins ≠ .instr (.sub rd a b) ∧ s.w.ins ≠ .instr (.mul rd a b)) →
      t.flag = none)

/-- 42_execute_memory_writeback.md R209: done counts every retiring instruction that is not a bubble. -/
def Obligations.RetirementCountsAllButBubbles : Prop :=
  ∀ s t : State, writebackStage s = .next t → s.w.busy = false →
    (Bubble s.w → t.done = s.done) ∧ (¬Bubble s.w → t.done = s.done + 1)

/-- Every instruction but the bubbles at Writeback (the Retire lines of 43_alu.md, 44_loadstore.md and 45_control.md): one
with a destination puts the buffer there and re-validates it unless claimed anew; ADD, SUB and MUL put it in FLAG too, for
the others FLAG becomes NONE; done grows by 1; nothing else changes. -/
def Obligations.InstructionsRetire : Prop :=
  ∀ (rd a b : Reg) (imm : Word) (s : State), s.turn = .writeback →
    (∀ t : State, t = { s with
        x := s.x.set rd.val s.w.buf rd.isLt
        flag := some s.w.buf
        valid := if s.e.dest = some rd then s.valid else s.valid.set rd.val true rd.isLt
        done := s.done + 1 } →
      exec (.add rd a b) s = .next t ∧ exec (.sub rd a b) s = .next t ∧ exec (.mul rd a b) s = .next t) ∧
    (∀ t : State, t = { s with
        x := s.x.set rd.val s.w.buf rd.isLt
        flag := none
        valid := if s.e.dest = some rd then s.valid else s.valid.set rd.val true rd.isLt
        done := s.done + 1 } →
      exec (.and rd a b) s = .next t ∧ exec (.or rd a b) s = .next t ∧ exec (.xor rd a b) s = .next t ∧
        exec (.movc rd imm) s = .next t ∧ exec (.load rd a imm) s = .next t) ∧
    (∀ t : State, t = { s with flag := none, done := s.done + 1 } →
      exec (.store a b imm) s = .next t ∧ exec (.bz imm) s = .next t ∧ exec (.bnz imm) s = .next t ∧
        exec (.jump a imm) s = .next t ∧ exec .halt s = .next t)

/-! ## Frames, over all turns -/

/-- What ADD, SUB, MUL, AND, OR, XOR and MOVC leave alone at any turn: every register and validity bit but rd's, FLAG and
done but at Writeback, D, lu and prev_rd but at Decode, E but at Decode and Execute, and always memory, pc, the other
latches, the other control state and the inputs. -/
def Obligations.RegisterInstructionsFrame : Prop :=
  ∀ (rd a b : Reg) (imm : Word) (i : Instr) (s t : State),
    i ∈ [.add rd a b, .sub rd a b, .mul rd a b, .and rd a b, .or rd a b, .xor rd a b, .movc rd imm] →
    exec i s = .next t →
    SameRegsBut rd s t ∧ (s.turn ≠ .writeback → SameRegs s t ∧ t.flag = s.flag ∧ t.done = s.done) ∧
    (∀ r, r ≠ rd → t.isValid r = s.isValid r) ∧ SameWords s t ∧ t.pc = s.pc ∧ t.halted = s.halted ∧
    t.clock = s.clock ∧ t.pend = s.pend ∧ t.f = s.f ∧ t.m = s.m ∧ t.w = s.w ∧ SameInputs s t ∧ t.stop = s.stop ∧
    (s.turn ≠ .decode → t.prevRd = s.prevRd ∧ t.lu = s.lu ∧ t.d = s.d) ∧
    (s.turn ≠ .decode → s.turn ≠ .execute → t.e = s.e)

/-- What LOAD and STORE leave alone at any turn. LOAD leaves every word; STORE leaves every word but the one whose index
its address gives, and every word at a turn other than Memory. -/
def Obligations.LoadStoreFrame : Prop :=
  ∀ (rd a b : Reg) (imm : Word) (s t : State),
    (exec (.load rd a imm) s = .next t →
      SameRegsBut rd s t ∧ (s.turn ≠ .writeback → SameRegs s t) ∧ (∀ r, r ≠ rd → t.isValid r = s.isValid r) ∧
      SameWords s t) ∧
    (exec (.store a b imm) s = .next t →
      SameRegs s t ∧ t.valid = s.valid ∧ (s.turn ≠ .memory → SameWords s t) ∧
      ∀ k, dmIndex s.cfg s.m.addr = some k → SameWordsBut k s t) ∧
    (exec (.load rd a imm) s = .next t ∨ exec (.store a b imm) s = .next t →
      (s.turn ≠ .writeback → t.flag = s.flag ∧ t.done = s.done) ∧ t.pc = s.pc ∧ t.halted = s.halted ∧
      t.clock = s.clock ∧ t.pend = s.pend ∧ t.prevRd = s.prevRd ∧ t.f = s.f ∧ t.w = s.w ∧ SameInputs s t ∧
      t.stop = s.stop ∧ (s.turn ≠ .decode → t.lu = s.lu ∧ t.d = s.d) ∧
      (s.turn ≠ .decode → s.turn ≠ .execute → t.e = s.e) ∧ (s.turn ≠ .memory → t.m = s.m))

/-- What BZ, BNZ, JUMP, HALT, NOP and EMPTY leave alone at any turn: every register, validity bit and word; FLAG but at
Writeback; pc but for a branch in Execute; pend but for a branch or a jump in Execute; HALTED and F but for HALT. -/
def Obligations.ControlFrame : Prop :=
  ∀ (a : Reg) (imm : Word) (i : Instr) (s t : State),
    i ∈ [.bz imm, .bnz imm, .jump a imm, .halt, .nop, .empty] → exec i s = .next t →
    SameRegs s t ∧ t.valid = s.valid ∧ SameWords s t ∧ (s.turn ≠ .writeback → t.flag = s.flag) ∧
    (s.turn ≠ .writeback → s.turn ≠ .execute → t.done = s.done) ∧
    (Instr.isBranch i = false ∨ s.turn ≠ .execute → t.pc = s.pc) ∧
    (i = .halt ∨ i = .nop ∨ i = .empty ∨ s.turn ≠ .execute → t.pend = s.pend) ∧
    (i ≠ .halt ∨ s.turn ≠ .execute → t.halted = s.halted ∧ t.f = s.f) ∧
    t.clock = s.clock ∧ t.prevRd = s.prevRd ∧ t.m = s.m ∧ t.w = s.w ∧ SameInputs s t ∧ t.stop = s.stop ∧
    (s.turn ≠ .decode → t.lu = s.lu ∧ t.e = s.e) ∧
    (s.turn ≠ .decode → (i ≠ .halt ∨ s.turn ≠ .execute) → t.d = s.d)

/-! ## The whole machine -/

/-- 20_memory.md R62 and 00_scope.md R7: no step changes the instruction store or the configuration. -/
def Obligations.InputsNeverChange : Prop :=
  ∀ s t : State, step s = .next t → SameInputs s t

/-- 20_memory.md R52 and R56: a step changes no word but the one a STORE in M addresses, and that one gets its data. -/
def Obligations.OnlyStoreChangesMemory : Prop :=
  ∀ s t : State, MemoryLegal s → step s = .next t → ∀ k, t.word k ≠ s.word k →
    (∃ rs1 rs2 imm, s.m.ins = .instr (.store rs1 rs2 imm)) ∧ s.m.busy = false ∧ s.e.stalled = false ∧
    sint s.m.addr = (k : Int) ∧ k < s.cfg.dmemWords ∧ t.word k = s.m.v1

/-- 10_state.md R20: a step changes no register but the destination of the instruction in W, which gets W.buf. -/
def Obligations.OnlyRetirementChangesRegisters : Prop :=
  ∀ s t : State, step s = .next t → ∀ r, t.reg r ≠ s.reg r →
    s.w.busy = false ∧ s.w.dest = some r ∧ t.reg r = s.w.buf

/-- 10_state.md R21: in a step a validity bit is set only by the retirement in Writeback or the flush of E's claim, and
cleared only for the destination of the instruction in D, which the step dispatches into E. -/
def Obligations.ValidityChangesOnlyByClaimRetireFlush : Prop :=
  ∀ s t : State, step s = .next t → ∀ r,
    (s.isValid r = false → t.isValid r = true →
      (s.w.busy = false ∧ s.w.dest = some r) ∨ (s.pend ≠ .none ∧ s.m.busy = false ∧ s.e.dest = some r)) ∧
    (s.isValid r = true → t.isValid r = false → s.d.dest = some r ∧ t.e.ins = s.d.ins ∧ t.e.busy = false)

/-- 10_state.md R25: HALTED is set only by a HALT in E and never cleared. -/
def Obligations.HaltedIsSetByHaltAndStays : Prop :=
  ∀ s t : State, step s = .next t →
    (s.halted = true → t.halted = true) ∧ (s.halted = false → t.halted = true → s.e.ins = .instr .halt)

/-- 10_state.md R31: prev_rd changes only to the destination of an ADD, SUB or MUL that the step dispatches from D. -/
def Obligations.PrevRdFollowsDispatchedFlagProducer : Prop :=
  ∀ s t : State, step s = .next t → t.prevRd ≠ s.prevRd →
    ∃ rd a b, t.prevRd = some rd ∧
      (s.d.ins = .instr (.add rd a b) ∨ s.d.ins = .instr (.sub rd a b) ∨ s.d.ins = .instr (.mul rd a b)) ∧
      t.e.ins = s.d.ins

/-- 60_exceptions.md R303, R304, R305, R308: a step is never refused; it faults only with DataAddressFault for the LOAD or
STORE in M or with FetchAddressFault for the FETCHFAULT record in E; clock is not advanced; and a data fault leaves the
memory as it was. -/
def Obligations.StepFaultsOnlyAsListed : Prop :=
  ∀ s : State,
    (∀ r, step s ≠ .refused r) ∧
    (∀ a u, step s = .fault (.dataAddressFault a u) →
      a = s.m.addr ∧ s.m.busy = false ∧ s.e.stalled = false ∧
      ((∃ rd r imm, s.m.ins = .instr (.load rd r imm)) ∨ (∃ r q imm, s.m.ins = .instr (.store r q imm))) ∧
      (sint a < 0 ∨ (s.cfg.dmemWords : Int) ≤ sint a) ∧ u.dm = s.dm ∧ u.m = s.m ∧ u.clock = s.clock) ∧
    (∀ a u, step s = .fault (.fetchAddressFault a u) →
      s.e.ins = .fetchFault ∧ a = s.e.pc ∧ u.clock = s.clock ∧ u.e = s.e)

/-- The machine after reset is legal, whatever the program, the configuration and the (legal) initial memory. -/
def Obligations.ResetIsLegal : Prop :=
  ∀ (cfg : Config) (store : List Packed) (init : Memory), init.wf = true → init.below cfg.dmemWords = true →
    Legal (State.resetWith cfg store init)

/-- Every step keeps a legal state legal. -/
def Obligations.StepKeepsLegal : Prop :=
  ∀ s t : State, Legal s → step s = .next t → Legal t

/-- From a drained machine, an ALU instruction or MOVC that is the last of the store retires after five cycles (a MUL
after six) with its result in rd, FLAG as 42_execute_memory_writeback.md R208 says, every register valid, done one
higher, and nothing else of the registers and the memory changed (70_reset_and_hazards.md R332, 43_alu.md). The bound
on pc keeps the fetches behind it from wrapping round. -/
def Obligations.AluInstructionRunsAlone : Prop :=
  ∀ (i : Instr) (rd : Reg) (v : Word) (s : State), Drained s → LastIs s i → s.pc.toNat + 32 < 2 ^ 32 →
    Instr.dest i = some rd → aluValue s.reg i = some v →
    ∃ t, steps (cyclesAlone i) s = .next t ∧ t.reg rd = v ∧ SameRegsBut rd s t ∧ (∀ r, t.isValid r = true) ∧
      t.flag = (if (Instr.flagDest i).isSome then some v else none) ∧ t.done = s.done + 1 ∧ SameWords s t ∧
      t.clock = s.clock + cyclesAlone i

/-- From a drained machine, a LOAD or a STORE that is the last of the store, with its address inside DM, completes after
five cycles: the word is in rd, or the data in the word, and nothing else of the registers and the memory changed
(44_loadstore.md, 70_reset_and_hazards.md R332). -/
def Obligations.LoadStoreRunsAlone : Prop :=
  ∀ (rd a b : Reg) (imm : Word) (s : State), Drained s → MemoryLegal s → s.pc.toNat + 32 < 2 ^ 32 →
    (LastIs s (.load rd a imm) → 0 ≤ sint (s.reg a + imm) → sint (s.reg a + imm) < (s.cfg.dmemWords : Int) →
      ∃ t, steps 5 s = .next t ∧ t.reg rd = s.word (sint (s.reg a + imm)).toNat ∧ SameRegsBut rd s t ∧
        SameWords s t ∧ t.flag = none ∧ t.done = s.done + 1) ∧
    (LastIs s (.store a b imm) → 0 ≤ sint (s.reg b + imm) → sint (s.reg b + imm) < (s.cfg.dmemWords : Int) →
      ∃ t, steps 5 s = .next t ∧ t.word (sint (s.reg b + imm)).toNat = s.reg a ∧
        SameWordsBut (sint (s.reg b + imm)).toNat s t ∧ SameRegs s t ∧ t.flag = none ∧ t.done = s.done + 1)

/-- From a drained machine, a JUMP at pc brings Fetch to its target in four cycles: pc is past the target, F holds what the
store reads there, and done is the target's index minus 1 (45_control.md, 42_execute_memory_writeback.md R202). The
instructions behind the JUMP are discarded, whatever they are. That done takes the difference of the target and BASE as one
of 32-bit values is log 7's reading (DEDUCED). -/
def Obligations.JumpReachesItsTarget : Prop :=
  ∀ (rs1 : Reg) (imm : Word) (r : Resident) (s : State), Drained s → NextIs s (.jump rs1 imm) →
    isRead s (s.reg rs1 + imm) = some r →
    ∃ t, steps 4 s = .next t ∧ t.pc = s.reg rs1 + imm + 4 ∧ t.f.ins = r ∧ t.f.pc = some (s.reg rs1 + imm) ∧
      t.d.ins = r ∧ t.done = BitVec.ofInt 32 (sint (s.reg rs1 + imm - s.cfg.base) / 4 - 1) ∧
      SameRegs s t ∧ (∀ q, t.isValid q = true) ∧ SameWords s t
end

