-- ==== Sys2Proof/Laws/State.lean ====
section
/-! SUPPORT. One lemma per field per named update of State: what the update leaves in that field. -/

namespace Sys2Proof.Machine

set_option Elab.async false

/-! ### setReg -/

@[simp] theorem State.setReg_x (s : State) (r : Reg) (v : Word) : (s.setReg r v).x = s.x.set r.val v r.isLt := rfl
@[simp] theorem State.setReg_valid (s : State) (r : Reg) (v : Word) : (s.setReg r v).valid = s.valid := rfl
@[simp] theorem State.setReg_pc (s : State) (r : Reg) (v : Word) : (s.setReg r v).pc = s.pc := rfl
@[simp] theorem State.setReg_flag (s : State) (r : Reg) (v : Word) : (s.setReg r v).flag = s.flag := rfl
@[simp] theorem State.setReg_halted (s : State) (r : Reg) (v : Word) : (s.setReg r v).halted = s.halted := rfl
@[simp] theorem State.setReg_clock (s : State) (r : Reg) (v : Word) : (s.setReg r v).clock = s.clock := rfl
@[simp] theorem State.setReg_done (s : State) (r : Reg) (v : Word) : (s.setReg r v).done = s.done := rfl
@[simp] theorem State.setReg_pend (s : State) (r : Reg) (v : Word) : (s.setReg r v).pend = s.pend := rfl
@[simp] theorem State.setReg_lu (s : State) (r : Reg) (v : Word) : (s.setReg r v).lu = s.lu := rfl
@[simp] theorem State.setReg_prevRd (s : State) (r : Reg) (v : Word) : (s.setReg r v).prevRd = s.prevRd := rfl
@[simp] theorem State.setReg_f (s : State) (r : Reg) (v : Word) : (s.setReg r v).f = s.f := rfl
@[simp] theorem State.setReg_d (s : State) (r : Reg) (v : Word) : (s.setReg r v).d = s.d := rfl
@[simp] theorem State.setReg_e (s : State) (r : Reg) (v : Word) : (s.setReg r v).e = s.e := rfl
@[simp] theorem State.setReg_m (s : State) (r : Reg) (v : Word) : (s.setReg r v).m = s.m := rfl
@[simp] theorem State.setReg_w (s : State) (r : Reg) (v : Word) : (s.setReg r v).w = s.w := rfl
@[simp] theorem State.setReg_dm (s : State) (r : Reg) (v : Word) : (s.setReg r v).dm = s.dm := rfl
@[simp] theorem State.setReg_store (s : State) (r : Reg) (v : Word) : (s.setReg r v).store = s.store := rfl
@[simp] theorem State.setReg_cfg (s : State) (r : Reg) (v : Word) : (s.setReg r v).cfg = s.cfg := rfl
@[simp] theorem State.setReg_stop (s : State) (r : Reg) (v : Word) : (s.setReg r v).stop = s.stop := rfl
@[simp] theorem State.setReg_turn (s : State) (r : Reg) (v : Word) : (s.setReg r v).turn = s.turn := rfl
@[simp] theorem State.setReg_draws (s : State) (r : Reg) (v : Word) : (s.setReg r v).draws = s.draws := rfl

/-! ### setValid -/

@[simp] theorem State.setValid_x (s : State) (r : Reg) (b : Bool) : (s.setValid r b).x = s.x := rfl
@[simp] theorem State.setValid_valid (s : State) (r : Reg) (b : Bool) : (s.setValid r b).valid = s.valid.set r.val b r.isLt := rfl
@[simp] theorem State.setValid_pc (s : State) (r : Reg) (b : Bool) : (s.setValid r b).pc = s.pc := rfl
@[simp] theorem State.setValid_flag (s : State) (r : Reg) (b : Bool) : (s.setValid r b).flag = s.flag := rfl
@[simp] theorem State.setValid_halted (s : State) (r : Reg) (b : Bool) : (s.setValid r b).halted = s.halted := rfl
@[simp] theorem State.setValid_clock (s : State) (r : Reg) (b : Bool) : (s.setValid r b).clock = s.clock := rfl
@[simp] theorem State.setValid_done (s : State) (r : Reg) (b : Bool) : (s.setValid r b).done = s.done := rfl
@[simp] theorem State.setValid_pend (s : State) (r : Reg) (b : Bool) : (s.setValid r b).pend = s.pend := rfl
@[simp] theorem State.setValid_lu (s : State) (r : Reg) (b : Bool) : (s.setValid r b).lu = s.lu := rfl
@[simp] theorem State.setValid_prevRd (s : State) (r : Reg) (b : Bool) : (s.setValid r b).prevRd = s.prevRd := rfl
@[simp] theorem State.setValid_f (s : State) (r : Reg) (b : Bool) : (s.setValid r b).f = s.f := rfl
@[simp] theorem State.setValid_d (s : State) (r : Reg) (b : Bool) : (s.setValid r b).d = s.d := rfl
@[simp] theorem State.setValid_e (s : State) (r : Reg) (b : Bool) : (s.setValid r b).e = s.e := rfl
@[simp] theorem State.setValid_m (s : State) (r : Reg) (b : Bool) : (s.setValid r b).m = s.m := rfl
@[simp] theorem State.setValid_w (s : State) (r : Reg) (b : Bool) : (s.setValid r b).w = s.w := rfl
@[simp] theorem State.setValid_dm (s : State) (r : Reg) (b : Bool) : (s.setValid r b).dm = s.dm := rfl
@[simp] theorem State.setValid_store (s : State) (r : Reg) (b : Bool) : (s.setValid r b).store = s.store := rfl
@[simp] theorem State.setValid_cfg (s : State) (r : Reg) (b : Bool) : (s.setValid r b).cfg = s.cfg := rfl
@[simp] theorem State.setValid_stop (s : State) (r : Reg) (b : Bool) : (s.setValid r b).stop = s.stop := rfl
@[simp] theorem State.setValid_turn (s : State) (r : Reg) (b : Bool) : (s.setValid r b).turn = s.turn := rfl
@[simp] theorem State.setValid_draws (s : State) (r : Reg) (b : Bool) : (s.setValid r b).draws = s.draws := rfl

/-! ### advanceDraws -/

@[simp] theorem State.advanceDraws_x (s : State) : (s.advanceDraws).x = s.x := rfl
@[simp] theorem State.advanceDraws_valid (s : State) : (s.advanceDraws).valid = s.valid := rfl
@[simp] theorem State.advanceDraws_pc (s : State) : (s.advanceDraws).pc = s.pc := rfl
@[simp] theorem State.advanceDraws_flag (s : State) : (s.advanceDraws).flag = s.flag := rfl
@[simp] theorem State.advanceDraws_halted (s : State) : (s.advanceDraws).halted = s.halted := rfl
@[simp] theorem State.advanceDraws_clock (s : State) : (s.advanceDraws).clock = s.clock := rfl
@[simp] theorem State.advanceDraws_done (s : State) : (s.advanceDraws).done = s.done := rfl
@[simp] theorem State.advanceDraws_pend (s : State) : (s.advanceDraws).pend = s.pend := rfl
@[simp] theorem State.advanceDraws_lu (s : State) : (s.advanceDraws).lu = s.lu := rfl
@[simp] theorem State.advanceDraws_prevRd (s : State) : (s.advanceDraws).prevRd = s.prevRd := rfl
@[simp] theorem State.advanceDraws_f (s : State) : (s.advanceDraws).f = s.f := rfl
@[simp] theorem State.advanceDraws_d (s : State) : (s.advanceDraws).d = s.d := rfl
@[simp] theorem State.advanceDraws_e (s : State) : (s.advanceDraws).e = s.e := rfl
@[simp] theorem State.advanceDraws_m (s : State) : (s.advanceDraws).m = s.m := rfl
@[simp] theorem State.advanceDraws_w (s : State) : (s.advanceDraws).w = s.w := rfl
@[simp] theorem State.advanceDraws_dm (s : State) : (s.advanceDraws).dm = s.dm := rfl
@[simp] theorem State.advanceDraws_store (s : State) : (s.advanceDraws).store = s.store := rfl
@[simp] theorem State.advanceDraws_cfg (s : State) : (s.advanceDraws).cfg = s.cfg := rfl
@[simp] theorem State.advanceDraws_stop (s : State) : (s.advanceDraws).stop = s.stop := rfl
@[simp] theorem State.advanceDraws_turn (s : State) : (s.advanceDraws).turn = s.turn := rfl
@[simp] theorem State.advanceDraws_draws (s : State) : (s.advanceDraws).draws = s.draws + 1 := rfl

/-! ### setWord -/

@[simp] theorem State.setWord_x (s : State) (k : Nat) (v : Word) : (s.setWord k v).x = s.x := rfl
@[simp] theorem State.setWord_valid (s : State) (k : Nat) (v : Word) : (s.setWord k v).valid = s.valid := rfl
@[simp] theorem State.setWord_pc (s : State) (k : Nat) (v : Word) : (s.setWord k v).pc = s.pc := rfl
@[simp] theorem State.setWord_flag (s : State) (k : Nat) (v : Word) : (s.setWord k v).flag = s.flag := rfl
@[simp] theorem State.setWord_halted (s : State) (k : Nat) (v : Word) : (s.setWord k v).halted = s.halted := rfl
@[simp] theorem State.setWord_clock (s : State) (k : Nat) (v : Word) : (s.setWord k v).clock = s.clock := rfl
@[simp] theorem State.setWord_done (s : State) (k : Nat) (v : Word) : (s.setWord k v).done = s.done := rfl
@[simp] theorem State.setWord_pend (s : State) (k : Nat) (v : Word) : (s.setWord k v).pend = s.pend := rfl
@[simp] theorem State.setWord_lu (s : State) (k : Nat) (v : Word) : (s.setWord k v).lu = s.lu := rfl
@[simp] theorem State.setWord_prevRd (s : State) (k : Nat) (v : Word) : (s.setWord k v).prevRd = s.prevRd := rfl
@[simp] theorem State.setWord_f (s : State) (k : Nat) (v : Word) : (s.setWord k v).f = s.f := rfl
@[simp] theorem State.setWord_d (s : State) (k : Nat) (v : Word) : (s.setWord k v).d = s.d := rfl
@[simp] theorem State.setWord_e (s : State) (k : Nat) (v : Word) : (s.setWord k v).e = s.e := rfl
@[simp] theorem State.setWord_m (s : State) (k : Nat) (v : Word) : (s.setWord k v).m = s.m := rfl
@[simp] theorem State.setWord_w (s : State) (k : Nat) (v : Word) : (s.setWord k v).w = s.w := rfl
@[simp] theorem State.setWord_dm (s : State) (k : Nat) (v : Word) : (s.setWord k v).dm = s.dm.write k v := rfl
@[simp] theorem State.setWord_store (s : State) (k : Nat) (v : Word) : (s.setWord k v).store = s.store := rfl
@[simp] theorem State.setWord_cfg (s : State) (k : Nat) (v : Word) : (s.setWord k v).cfg = s.cfg := rfl
@[simp] theorem State.setWord_stop (s : State) (k : Nat) (v : Word) : (s.setWord k v).stop = s.stop := rfl
@[simp] theorem State.setWord_turn (s : State) (k : Nat) (v : Word) : (s.setWord k v).turn = s.turn := rfl
@[simp] theorem State.setWord_draws (s : State) (k : Nat) (v : Word) : (s.setWord k v).draws = s.draws := rfl

/-! ### stall -/

@[simp] theorem State.stall_x (s : State) (why : StallReason) : (s.stall why).x = s.x := rfl
@[simp] theorem State.stall_valid (s : State) (why : StallReason) : (s.stall why).valid = s.valid := rfl
@[simp] theorem State.stall_pc (s : State) (why : StallReason) : (s.stall why).pc = s.pc := rfl
@[simp] theorem State.stall_flag (s : State) (why : StallReason) : (s.stall why).flag = s.flag := rfl
@[simp] theorem State.stall_halted (s : State) (why : StallReason) : (s.stall why).halted = s.halted := rfl
@[simp] theorem State.stall_clock (s : State) (why : StallReason) : (s.stall why).clock = s.clock := rfl
@[simp] theorem State.stall_done (s : State) (why : StallReason) : (s.stall why).done = s.done := rfl
@[simp] theorem State.stall_pend (s : State) (why : StallReason) : (s.stall why).pend = s.pend := rfl
@[simp] theorem State.stall_lu (s : State) (why : StallReason) : (s.stall why).lu = s.lu := rfl
@[simp] theorem State.stall_prevRd (s : State) (why : StallReason) : (s.stall why).prevRd = s.prevRd := rfl
@[simp] theorem State.stall_f (s : State) (why : StallReason) : (s.stall why).f = s.f := rfl
@[simp] theorem State.stall_d (s : State) (why : StallReason) : (s.stall why).d = { s.d with stalled := true, reason := some why } := rfl
@[simp] theorem State.stall_e (s : State) (why : StallReason) : (s.stall why).e = s.e := rfl
@[simp] theorem State.stall_m (s : State) (why : StallReason) : (s.stall why).m = s.m := rfl
@[simp] theorem State.stall_w (s : State) (why : StallReason) : (s.stall why).w = s.w := rfl
@[simp] theorem State.stall_dm (s : State) (why : StallReason) : (s.stall why).dm = s.dm := rfl
@[simp] theorem State.stall_store (s : State) (why : StallReason) : (s.stall why).store = s.store := rfl
@[simp] theorem State.stall_cfg (s : State) (why : StallReason) : (s.stall why).cfg = s.cfg := rfl
@[simp] theorem State.stall_stop (s : State) (why : StallReason) : (s.stall why).stop = s.stop := rfl
@[simp] theorem State.stall_turn (s : State) (why : StallReason) : (s.stall why).turn = s.turn := rfl
@[simp] theorem State.stall_draws (s : State) (why : StallReason) : (s.stall why).draws = s.draws := rfl

/-! ### release -/

@[simp] theorem State.release_x (s : State) : (s.release).x = s.x := rfl
@[simp] theorem State.release_valid (s : State) : (s.release).valid = s.valid := rfl
@[simp] theorem State.release_pc (s : State) : (s.release).pc = s.pc := rfl
@[simp] theorem State.release_flag (s : State) : (s.release).flag = s.flag := rfl
@[simp] theorem State.release_halted (s : State) : (s.release).halted = s.halted := rfl
@[simp] theorem State.release_clock (s : State) : (s.release).clock = s.clock := rfl
@[simp] theorem State.release_done (s : State) : (s.release).done = s.done := rfl
@[simp] theorem State.release_pend (s : State) : (s.release).pend = s.pend := rfl
@[simp] theorem State.release_lu (s : State) : (s.release).lu = s.lu := rfl
@[simp] theorem State.release_prevRd (s : State) : (s.release).prevRd = s.prevRd := rfl
@[simp] theorem State.release_f (s : State) : (s.release).f = s.f := rfl
@[simp] theorem State.release_d (s : State) : (s.release).d = { s.d with stalled := false, reason := none } := rfl
@[simp] theorem State.release_e (s : State) : (s.release).e = s.e := rfl
@[simp] theorem State.release_m (s : State) : (s.release).m = s.m := rfl
@[simp] theorem State.release_w (s : State) : (s.release).w = s.w := rfl
@[simp] theorem State.release_dm (s : State) : (s.release).dm = s.dm := rfl
@[simp] theorem State.release_store (s : State) : (s.release).store = s.store := rfl
@[simp] theorem State.release_cfg (s : State) : (s.release).cfg = s.cfg := rfl
@[simp] theorem State.release_stop (s : State) : (s.release).stop = s.stop := rfl
@[simp] theorem State.release_turn (s : State) : (s.release).turn = s.turn := rfl
@[simp] theorem State.release_draws (s : State) : (s.release).draws = s.draws := rfl

/-! ### setResult -/

@[simp] theorem State.setResult_x (s : State) (v : Word) : (s.setResult v).x = s.x := rfl
@[simp] theorem State.setResult_valid (s : State) (v : Word) : (s.setResult v).valid = s.valid := rfl
@[simp] theorem State.setResult_pc (s : State) (v : Word) : (s.setResult v).pc = s.pc := rfl
@[simp] theorem State.setResult_flag (s : State) (v : Word) : (s.setResult v).flag = s.flag := rfl
@[simp] theorem State.setResult_halted (s : State) (v : Word) : (s.setResult v).halted = s.halted := rfl
@[simp] theorem State.setResult_clock (s : State) (v : Word) : (s.setResult v).clock = s.clock := rfl
@[simp] theorem State.setResult_done (s : State) (v : Word) : (s.setResult v).done = s.done := rfl
@[simp] theorem State.setResult_pend (s : State) (v : Word) : (s.setResult v).pend = s.pend := rfl
@[simp] theorem State.setResult_lu (s : State) (v : Word) : (s.setResult v).lu = s.lu := rfl
@[simp] theorem State.setResult_prevRd (s : State) (v : Word) : (s.setResult v).prevRd = s.prevRd := rfl
@[simp] theorem State.setResult_f (s : State) (v : Word) : (s.setResult v).f = s.f := rfl
@[simp] theorem State.setResult_d (s : State) (v : Word) : (s.setResult v).d = s.d := rfl
@[simp] theorem State.setResult_e (s : State) (v : Word) : (s.setResult v).e = { s.e with buf := v } := rfl
@[simp] theorem State.setResult_m (s : State) (v : Word) : (s.setResult v).m = s.m := rfl
@[simp] theorem State.setResult_w (s : State) (v : Word) : (s.setResult v).w = s.w := rfl
@[simp] theorem State.setResult_dm (s : State) (v : Word) : (s.setResult v).dm = s.dm := rfl
@[simp] theorem State.setResult_store (s : State) (v : Word) : (s.setResult v).store = s.store := rfl
@[simp] theorem State.setResult_cfg (s : State) (v : Word) : (s.setResult v).cfg = s.cfg := rfl
@[simp] theorem State.setResult_stop (s : State) (v : Word) : (s.setResult v).stop = s.stop := rfl
@[simp] theorem State.setResult_turn (s : State) (v : Word) : (s.setResult v).turn = s.turn := rfl
@[simp] theorem State.setResult_draws (s : State) (v : Word) : (s.setResult v).draws = s.draws := rfl

/-! ### setAddr -/

@[simp] theorem State.setAddr_x (s : State) (v : Word) : (s.setAddr v).x = s.x := rfl
@[simp] theorem State.setAddr_valid (s : State) (v : Word) : (s.setAddr v).valid = s.valid := rfl
@[simp] theorem State.setAddr_pc (s : State) (v : Word) : (s.setAddr v).pc = s.pc := rfl
@[simp] theorem State.setAddr_flag (s : State) (v : Word) : (s.setAddr v).flag = s.flag := rfl
@[simp] theorem State.setAddr_halted (s : State) (v : Word) : (s.setAddr v).halted = s.halted := rfl
@[simp] theorem State.setAddr_clock (s : State) (v : Word) : (s.setAddr v).clock = s.clock := rfl
@[simp] theorem State.setAddr_done (s : State) (v : Word) : (s.setAddr v).done = s.done := rfl
@[simp] theorem State.setAddr_pend (s : State) (v : Word) : (s.setAddr v).pend = s.pend := rfl
@[simp] theorem State.setAddr_lu (s : State) (v : Word) : (s.setAddr v).lu = s.lu := rfl
@[simp] theorem State.setAddr_prevRd (s : State) (v : Word) : (s.setAddr v).prevRd = s.prevRd := rfl
@[simp] theorem State.setAddr_f (s : State) (v : Word) : (s.setAddr v).f = s.f := rfl
@[simp] theorem State.setAddr_d (s : State) (v : Word) : (s.setAddr v).d = s.d := rfl
@[simp] theorem State.setAddr_e (s : State) (v : Word) : (s.setAddr v).e = { s.e with addr := v } := rfl
@[simp] theorem State.setAddr_m (s : State) (v : Word) : (s.setAddr v).m = s.m := rfl
@[simp] theorem State.setAddr_w (s : State) (v : Word) : (s.setAddr v).w = s.w := rfl
@[simp] theorem State.setAddr_dm (s : State) (v : Word) : (s.setAddr v).dm = s.dm := rfl
@[simp] theorem State.setAddr_store (s : State) (v : Word) : (s.setAddr v).store = s.store := rfl
@[simp] theorem State.setAddr_cfg (s : State) (v : Word) : (s.setAddr v).cfg = s.cfg := rfl
@[simp] theorem State.setAddr_stop (s : State) (v : Word) : (s.setAddr v).stop = s.stop := rfl
@[simp] theorem State.setAddr_turn (s : State) (v : Word) : (s.setAddr v).turn = s.turn := rfl
@[simp] theorem State.setAddr_draws (s : State) (v : Word) : (s.setAddr v).draws = s.draws := rfl

/-! ### setStoreData -/

@[simp] theorem State.setStoreData_x (s : State) (v : Word) : (s.setStoreData v).x = s.x := rfl
@[simp] theorem State.setStoreData_valid (s : State) (v : Word) : (s.setStoreData v).valid = s.valid := rfl
@[simp] theorem State.setStoreData_pc (s : State) (v : Word) : (s.setStoreData v).pc = s.pc := rfl
@[simp] theorem State.setStoreData_flag (s : State) (v : Word) : (s.setStoreData v).flag = s.flag := rfl
@[simp] theorem State.setStoreData_halted (s : State) (v : Word) : (s.setStoreData v).halted = s.halted := rfl
@[simp] theorem State.setStoreData_clock (s : State) (v : Word) : (s.setStoreData v).clock = s.clock := rfl
@[simp] theorem State.setStoreData_done (s : State) (v : Word) : (s.setStoreData v).done = s.done := rfl
@[simp] theorem State.setStoreData_pend (s : State) (v : Word) : (s.setStoreData v).pend = s.pend := rfl
@[simp] theorem State.setStoreData_lu (s : State) (v : Word) : (s.setStoreData v).lu = s.lu := rfl
@[simp] theorem State.setStoreData_prevRd (s : State) (v : Word) : (s.setStoreData v).prevRd = s.prevRd := rfl
@[simp] theorem State.setStoreData_f (s : State) (v : Word) : (s.setStoreData v).f = s.f := rfl
@[simp] theorem State.setStoreData_d (s : State) (v : Word) : (s.setStoreData v).d = s.d := rfl
@[simp] theorem State.setStoreData_e (s : State) (v : Word) : (s.setStoreData v).e = { s.e with v1 := v } := rfl
@[simp] theorem State.setStoreData_m (s : State) (v : Word) : (s.setStoreData v).m = s.m := rfl
@[simp] theorem State.setStoreData_w (s : State) (v : Word) : (s.setStoreData v).w = s.w := rfl
@[simp] theorem State.setStoreData_dm (s : State) (v : Word) : (s.setStoreData v).dm = s.dm := rfl
@[simp] theorem State.setStoreData_store (s : State) (v : Word) : (s.setStoreData v).store = s.store := rfl
@[simp] theorem State.setStoreData_cfg (s : State) (v : Word) : (s.setStoreData v).cfg = s.cfg := rfl
@[simp] theorem State.setStoreData_stop (s : State) (v : Word) : (s.setStoreData v).stop = s.stop := rfl
@[simp] theorem State.setStoreData_turn (s : State) (v : Word) : (s.setStoreData v).turn = s.turn := rfl
@[simp] theorem State.setStoreData_draws (s : State) (v : Word) : (s.setStoreData v).draws = s.draws := rfl

/-! ### emptyYounger -/

@[simp] theorem State.emptyYounger_x (s : State) : (s.emptyYounger).x = s.x := rfl
@[simp] theorem State.emptyYounger_valid (s : State) : (s.emptyYounger).valid = s.valid := rfl
@[simp] theorem State.emptyYounger_pc (s : State) : (s.emptyYounger).pc = s.pc := rfl
@[simp] theorem State.emptyYounger_flag (s : State) : (s.emptyYounger).flag = s.flag := rfl
@[simp] theorem State.emptyYounger_halted (s : State) : (s.emptyYounger).halted = s.halted := rfl
@[simp] theorem State.emptyYounger_clock (s : State) : (s.emptyYounger).clock = s.clock := rfl
@[simp] theorem State.emptyYounger_done (s : State) : (s.emptyYounger).done = s.done := rfl
@[simp] theorem State.emptyYounger_pend (s : State) : (s.emptyYounger).pend = s.pend := rfl
@[simp] theorem State.emptyYounger_lu (s : State) : (s.emptyYounger).lu = s.lu := rfl
@[simp] theorem State.emptyYounger_prevRd (s : State) : (s.emptyYounger).prevRd = s.prevRd := rfl
@[simp] theorem State.emptyYounger_f (s : State) : (s.emptyYounger).f = Latch.empty := rfl
@[simp] theorem State.emptyYounger_d (s : State) : (s.emptyYounger).d = Latch.empty := rfl
@[simp] theorem State.emptyYounger_e (s : State) : (s.emptyYounger).e = s.e := rfl
@[simp] theorem State.emptyYounger_m (s : State) : (s.emptyYounger).m = s.m := rfl
@[simp] theorem State.emptyYounger_w (s : State) : (s.emptyYounger).w = s.w := rfl
@[simp] theorem State.emptyYounger_dm (s : State) : (s.emptyYounger).dm = s.dm := rfl
@[simp] theorem State.emptyYounger_store (s : State) : (s.emptyYounger).store = s.store := rfl
@[simp] theorem State.emptyYounger_cfg (s : State) : (s.emptyYounger).cfg = s.cfg := rfl
@[simp] theorem State.emptyYounger_stop (s : State) : (s.emptyYounger).stop = s.stop := rfl
@[simp] theorem State.emptyYounger_turn (s : State) : (s.emptyYounger).turn = s.turn := rfl
@[simp] theorem State.emptyYounger_draws (s : State) : (s.emptyYounger).draws = s.draws := rfl

/-! ### addDone -/

@[simp] theorem State.addDone_x (s : State) (n : Int) : (s.addDone n).x = s.x := rfl
@[simp] theorem State.addDone_valid (s : State) (n : Int) : (s.addDone n).valid = s.valid := rfl
@[simp] theorem State.addDone_pc (s : State) (n : Int) : (s.addDone n).pc = s.pc := rfl
@[simp] theorem State.addDone_flag (s : State) (n : Int) : (s.addDone n).flag = s.flag := rfl
@[simp] theorem State.addDone_halted (s : State) (n : Int) : (s.addDone n).halted = s.halted := rfl
@[simp] theorem State.addDone_clock (s : State) (n : Int) : (s.addDone n).clock = s.clock := rfl
@[simp] theorem State.addDone_done (s : State) (n : Int) : (s.addDone n).done = s.done + BitVec.ofInt 32 n := rfl
@[simp] theorem State.addDone_pend (s : State) (n : Int) : (s.addDone n).pend = s.pend := rfl
@[simp] theorem State.addDone_lu (s : State) (n : Int) : (s.addDone n).lu = s.lu := rfl
@[simp] theorem State.addDone_prevRd (s : State) (n : Int) : (s.addDone n).prevRd = s.prevRd := rfl
@[simp] theorem State.addDone_f (s : State) (n : Int) : (s.addDone n).f = s.f := rfl
@[simp] theorem State.addDone_d (s : State) (n : Int) : (s.addDone n).d = s.d := rfl
@[simp] theorem State.addDone_e (s : State) (n : Int) : (s.addDone n).e = s.e := rfl
@[simp] theorem State.addDone_m (s : State) (n : Int) : (s.addDone n).m = s.m := rfl
@[simp] theorem State.addDone_w (s : State) (n : Int) : (s.addDone n).w = s.w := rfl
@[simp] theorem State.addDone_dm (s : State) (n : Int) : (s.addDone n).dm = s.dm := rfl
@[simp] theorem State.addDone_store (s : State) (n : Int) : (s.addDone n).store = s.store := rfl
@[simp] theorem State.addDone_cfg (s : State) (n : Int) : (s.addDone n).cfg = s.cfg := rfl
@[simp] theorem State.addDone_stop (s : State) (n : Int) : (s.addDone n).stop = s.stop := rfl
@[simp] theorem State.addDone_turn (s : State) (n : Int) : (s.addDone n).turn = s.turn := rfl
@[simp] theorem State.addDone_draws (s : State) (n : Int) : (s.addDone n).draws = s.draws := rfl

/-! ### setDone -/

@[simp] theorem State.setDone_x (s : State) (n : Int) : (s.setDone n).x = s.x := rfl
@[simp] theorem State.setDone_valid (s : State) (n : Int) : (s.setDone n).valid = s.valid := rfl
@[simp] theorem State.setDone_pc (s : State) (n : Int) : (s.setDone n).pc = s.pc := rfl
@[simp] theorem State.setDone_flag (s : State) (n : Int) : (s.setDone n).flag = s.flag := rfl
@[simp] theorem State.setDone_halted (s : State) (n : Int) : (s.setDone n).halted = s.halted := rfl
@[simp] theorem State.setDone_clock (s : State) (n : Int) : (s.setDone n).clock = s.clock := rfl
@[simp] theorem State.setDone_done (s : State) (n : Int) : (s.setDone n).done = BitVec.ofInt 32 n := rfl
@[simp] theorem State.setDone_pend (s : State) (n : Int) : (s.setDone n).pend = s.pend := rfl
@[simp] theorem State.setDone_lu (s : State) (n : Int) : (s.setDone n).lu = s.lu := rfl
@[simp] theorem State.setDone_prevRd (s : State) (n : Int) : (s.setDone n).prevRd = s.prevRd := rfl
@[simp] theorem State.setDone_f (s : State) (n : Int) : (s.setDone n).f = s.f := rfl
@[simp] theorem State.setDone_d (s : State) (n : Int) : (s.setDone n).d = s.d := rfl
@[simp] theorem State.setDone_e (s : State) (n : Int) : (s.setDone n).e = s.e := rfl
@[simp] theorem State.setDone_m (s : State) (n : Int) : (s.setDone n).m = s.m := rfl
@[simp] theorem State.setDone_w (s : State) (n : Int) : (s.setDone n).w = s.w := rfl
@[simp] theorem State.setDone_dm (s : State) (n : Int) : (s.setDone n).dm = s.dm := rfl
@[simp] theorem State.setDone_store (s : State) (n : Int) : (s.setDone n).store = s.store := rfl
@[simp] theorem State.setDone_cfg (s : State) (n : Int) : (s.setDone n).cfg = s.cfg := rfl
@[simp] theorem State.setDone_stop (s : State) (n : Int) : (s.setDone n).stop = s.stop := rfl
@[simp] theorem State.setDone_turn (s : State) (n : Int) : (s.setDone n).turn = s.turn := rfl
@[simp] theorem State.setDone_draws (s : State) (n : Int) : (s.setDone n).draws = s.draws := rfl

/-! ### captureFlag -/

@[simp] theorem State.captureFlag_x (s : State) : (s.captureFlag).x = s.x := rfl
@[simp] theorem State.captureFlag_valid (s : State) : (s.captureFlag).valid = s.valid := rfl
@[simp] theorem State.captureFlag_pc (s : State) : (s.captureFlag).pc = s.pc := rfl
@[simp] theorem State.captureFlag_flag (s : State) : (s.captureFlag).flag = s.flag := rfl
@[simp] theorem State.captureFlag_halted (s : State) : (s.captureFlag).halted = s.halted := rfl
@[simp] theorem State.captureFlag_clock (s : State) : (s.captureFlag).clock = s.clock := rfl
@[simp] theorem State.captureFlag_done (s : State) : (s.captureFlag).done = s.done := rfl
@[simp] theorem State.captureFlag_pend (s : State) : (s.captureFlag).pend = s.pend := rfl
@[simp] theorem State.captureFlag_lu (s : State) : (s.captureFlag).lu = s.lu := rfl
@[simp] theorem State.captureFlag_prevRd (s : State) : (s.captureFlag).prevRd = s.prevRd := rfl
@[simp] theorem State.captureFlag_f (s : State) : (s.captureFlag).f = s.f := rfl
@[simp] theorem State.captureFlag_d (s : State) : (s.captureFlag).d = { s.d with resolve := true, snap := s.flag, released := false } := rfl
@[simp] theorem State.captureFlag_e (s : State) : (s.captureFlag).e = s.e := rfl
@[simp] theorem State.captureFlag_m (s : State) : (s.captureFlag).m = s.m := rfl
@[simp] theorem State.captureFlag_w (s : State) : (s.captureFlag).w = s.w := rfl
@[simp] theorem State.captureFlag_dm (s : State) : (s.captureFlag).dm = s.dm := rfl
@[simp] theorem State.captureFlag_store (s : State) : (s.captureFlag).store = s.store := rfl
@[simp] theorem State.captureFlag_cfg (s : State) : (s.captureFlag).cfg = s.cfg := rfl
@[simp] theorem State.captureFlag_stop (s : State) : (s.captureFlag).stop = s.stop := rfl
@[simp] theorem State.captureFlag_turn (s : State) : (s.captureFlag).turn = s.turn := rfl
@[simp] theorem State.captureFlag_draws (s : State) : (s.captureFlag).draws = s.draws := rfl

/-! ### waitForFlag -/

@[simp] theorem State.waitForFlag_x (s : State) : (s.waitForFlag).x = s.x := rfl
@[simp] theorem State.waitForFlag_valid (s : State) : (s.waitForFlag).valid = s.valid := rfl
@[simp] theorem State.waitForFlag_pc (s : State) : (s.waitForFlag).pc = s.pc := rfl
@[simp] theorem State.waitForFlag_flag (s : State) : (s.waitForFlag).flag = s.flag := rfl
@[simp] theorem State.waitForFlag_halted (s : State) : (s.waitForFlag).halted = s.halted := rfl
@[simp] theorem State.waitForFlag_clock (s : State) : (s.waitForFlag).clock = s.clock := rfl
@[simp] theorem State.waitForFlag_done (s : State) : (s.waitForFlag).done = s.done := rfl
@[simp] theorem State.waitForFlag_pend (s : State) : (s.waitForFlag).pend = s.pend := rfl
@[simp] theorem State.waitForFlag_lu (s : State) : (s.waitForFlag).lu = s.lu := rfl
@[simp] theorem State.waitForFlag_prevRd (s : State) : (s.waitForFlag).prevRd = s.prevRd := rfl
@[simp] theorem State.waitForFlag_f (s : State) : (s.waitForFlag).f = s.f := rfl
@[simp] theorem State.waitForFlag_d (s : State) : (s.waitForFlag).d = { s.d with stalled := true, reason := some .branchWait, wait := s.prevRd } := rfl
@[simp] theorem State.waitForFlag_e (s : State) : (s.waitForFlag).e = s.e := rfl
@[simp] theorem State.waitForFlag_m (s : State) : (s.waitForFlag).m = s.m := rfl
@[simp] theorem State.waitForFlag_w (s : State) : (s.waitForFlag).w = s.w := rfl
@[simp] theorem State.waitForFlag_dm (s : State) : (s.waitForFlag).dm = s.dm := rfl
@[simp] theorem State.waitForFlag_store (s : State) : (s.waitForFlag).store = s.store := rfl
@[simp] theorem State.waitForFlag_cfg (s : State) : (s.waitForFlag).cfg = s.cfg := rfl
@[simp] theorem State.waitForFlag_stop (s : State) : (s.waitForFlag).stop = s.stop := rfl
@[simp] theorem State.waitForFlag_turn (s : State) : (s.waitForFlag).turn = s.turn := rfl
@[simp] theorem State.waitForFlag_draws (s : State) : (s.waitForFlag).draws = s.draws := rfl

/-! ### setFlag -/

@[simp] theorem State.setFlag_x (s : State) (v : Option Word) : (s.setFlag v).x = s.x := rfl
@[simp] theorem State.setFlag_valid (s : State) (v : Option Word) : (s.setFlag v).valid = s.valid := rfl
@[simp] theorem State.setFlag_pc (s : State) (v : Option Word) : (s.setFlag v).pc = s.pc := rfl
@[simp] theorem State.setFlag_flag (s : State) (v : Option Word) : (s.setFlag v).flag = v := rfl
@[simp] theorem State.setFlag_halted (s : State) (v : Option Word) : (s.setFlag v).halted = s.halted := rfl
@[simp] theorem State.setFlag_clock (s : State) (v : Option Word) : (s.setFlag v).clock = s.clock := rfl
@[simp] theorem State.setFlag_done (s : State) (v : Option Word) : (s.setFlag v).done = s.done := rfl
@[simp] theorem State.setFlag_pend (s : State) (v : Option Word) : (s.setFlag v).pend = s.pend := rfl
@[simp] theorem State.setFlag_lu (s : State) (v : Option Word) : (s.setFlag v).lu = s.lu := rfl
@[simp] theorem State.setFlag_prevRd (s : State) (v : Option Word) : (s.setFlag v).prevRd = s.prevRd := rfl
@[simp] theorem State.setFlag_f (s : State) (v : Option Word) : (s.setFlag v).f = s.f := rfl
@[simp] theorem State.setFlag_d (s : State) (v : Option Word) : (s.setFlag v).d = s.d := rfl
@[simp] theorem State.setFlag_e (s : State) (v : Option Word) : (s.setFlag v).e = s.e := rfl
@[simp] theorem State.setFlag_m (s : State) (v : Option Word) : (s.setFlag v).m = s.m := rfl
@[simp] theorem State.setFlag_w (s : State) (v : Option Word) : (s.setFlag v).w = s.w := rfl
@[simp] theorem State.setFlag_dm (s : State) (v : Option Word) : (s.setFlag v).dm = s.dm := rfl
@[simp] theorem State.setFlag_store (s : State) (v : Option Word) : (s.setFlag v).store = s.store := rfl
@[simp] theorem State.setFlag_cfg (s : State) (v : Option Word) : (s.setFlag v).cfg = s.cfg := rfl
@[simp] theorem State.setFlag_stop (s : State) (v : Option Word) : (s.setFlag v).stop = s.stop := rfl
@[simp] theorem State.setFlag_turn (s : State) (v : Option Word) : (s.setFlag v).turn = s.turn := rfl
@[simp] theorem State.setFlag_draws (s : State) (v : Option Word) : (s.setFlag v).draws = s.draws := rfl

/-! ### holdExecute -/

@[simp] theorem State.holdExecute_x (s : State) : (s.holdExecute).x = s.x := rfl
@[simp] theorem State.holdExecute_valid (s : State) : (s.holdExecute).valid = s.valid := rfl
@[simp] theorem State.holdExecute_pc (s : State) : (s.holdExecute).pc = s.pc := rfl
@[simp] theorem State.holdExecute_flag (s : State) : (s.holdExecute).flag = s.flag := rfl
@[simp] theorem State.holdExecute_halted (s : State) : (s.holdExecute).halted = s.halted := rfl
@[simp] theorem State.holdExecute_clock (s : State) : (s.holdExecute).clock = s.clock := rfl
@[simp] theorem State.holdExecute_done (s : State) : (s.holdExecute).done = s.done := rfl
@[simp] theorem State.holdExecute_pend (s : State) : (s.holdExecute).pend = s.pend := rfl
@[simp] theorem State.holdExecute_lu (s : State) : (s.holdExecute).lu = s.lu := rfl
@[simp] theorem State.holdExecute_prevRd (s : State) : (s.holdExecute).prevRd = s.prevRd := rfl
@[simp] theorem State.holdExecute_f (s : State) : (s.holdExecute).f = s.f := rfl
@[simp] theorem State.holdExecute_d (s : State) : (s.holdExecute).d = s.d := rfl
@[simp] theorem State.holdExecute_e (s : State) : (s.holdExecute).e = { s.e with stalled := true } := rfl
@[simp] theorem State.holdExecute_m (s : State) : (s.holdExecute).m = s.m := rfl
@[simp] theorem State.holdExecute_w (s : State) : (s.holdExecute).w = s.w := rfl
@[simp] theorem State.holdExecute_dm (s : State) : (s.holdExecute).dm = s.dm := rfl
@[simp] theorem State.holdExecute_store (s : State) : (s.holdExecute).store = s.store := rfl
@[simp] theorem State.holdExecute_cfg (s : State) : (s.holdExecute).cfg = s.cfg := rfl
@[simp] theorem State.holdExecute_stop (s : State) : (s.holdExecute).stop = s.stop := rfl
@[simp] theorem State.holdExecute_turn (s : State) : (s.holdExecute).turn = s.turn := rfl
@[simp] theorem State.holdExecute_draws (s : State) : (s.holdExecute).draws = s.draws := rfl

/-! ### setLoaded -/

@[simp] theorem State.setLoaded_x (s : State) (v : Word) : (s.setLoaded v).x = s.x := rfl
@[simp] theorem State.setLoaded_valid (s : State) (v : Word) : (s.setLoaded v).valid = s.valid := rfl
@[simp] theorem State.setLoaded_pc (s : State) (v : Word) : (s.setLoaded v).pc = s.pc := rfl
@[simp] theorem State.setLoaded_flag (s : State) (v : Word) : (s.setLoaded v).flag = s.flag := rfl
@[simp] theorem State.setLoaded_halted (s : State) (v : Word) : (s.setLoaded v).halted = s.halted := rfl
@[simp] theorem State.setLoaded_clock (s : State) (v : Word) : (s.setLoaded v).clock = s.clock := rfl
@[simp] theorem State.setLoaded_done (s : State) (v : Word) : (s.setLoaded v).done = s.done := rfl
@[simp] theorem State.setLoaded_pend (s : State) (v : Word) : (s.setLoaded v).pend = s.pend := rfl
@[simp] theorem State.setLoaded_lu (s : State) (v : Word) : (s.setLoaded v).lu = s.lu := rfl
@[simp] theorem State.setLoaded_prevRd (s : State) (v : Word) : (s.setLoaded v).prevRd = s.prevRd := rfl
@[simp] theorem State.setLoaded_f (s : State) (v : Word) : (s.setLoaded v).f = s.f := rfl
@[simp] theorem State.setLoaded_d (s : State) (v : Word) : (s.setLoaded v).d = s.d := rfl
@[simp] theorem State.setLoaded_e (s : State) (v : Word) : (s.setLoaded v).e = s.e := rfl
@[simp] theorem State.setLoaded_m (s : State) (v : Word) : (s.setLoaded v).m = { s.m with buf := v } := rfl
@[simp] theorem State.setLoaded_w (s : State) (v : Word) : (s.setLoaded v).w = s.w := rfl
@[simp] theorem State.setLoaded_dm (s : State) (v : Word) : (s.setLoaded v).dm = s.dm := rfl
@[simp] theorem State.setLoaded_store (s : State) (v : Word) : (s.setLoaded v).store = s.store := rfl
@[simp] theorem State.setLoaded_cfg (s : State) (v : Word) : (s.setLoaded v).cfg = s.cfg := rfl
@[simp] theorem State.setLoaded_stop (s : State) (v : Word) : (s.setLoaded v).stop = s.stop := rfl
@[simp] theorem State.setLoaded_turn (s : State) (v : Word) : (s.setLoaded v).turn = s.turn := rfl
@[simp] theorem State.setLoaded_draws (s : State) (v : Word) : (s.setLoaded v).draws = s.draws := rfl

/-! ### pendJump -/

@[simp] theorem State.pendJump_x (s : State) (t : Word) : (s.pendJump t).x = s.x := rfl
@[simp] theorem State.pendJump_valid (s : State) (t : Word) : (s.pendJump t).valid = s.valid := rfl
@[simp] theorem State.pendJump_pc (s : State) (t : Word) : (s.pendJump t).pc = s.pc := rfl
@[simp] theorem State.pendJump_flag (s : State) (t : Word) : (s.pendJump t).flag = s.flag := rfl
@[simp] theorem State.pendJump_halted (s : State) (t : Word) : (s.pendJump t).halted = s.halted := rfl
@[simp] theorem State.pendJump_clock (s : State) (t : Word) : (s.pendJump t).clock = s.clock := rfl
@[simp] theorem State.pendJump_done (s : State) (t : Word) : (s.pendJump t).done = s.done := rfl
@[simp] theorem State.pendJump_pend (s : State) (t : Word) : (s.pendJump t).pend = .jump t := rfl
@[simp] theorem State.pendJump_lu (s : State) (t : Word) : (s.pendJump t).lu = s.lu := rfl
@[simp] theorem State.pendJump_prevRd (s : State) (t : Word) : (s.pendJump t).prevRd = s.prevRd := rfl
@[simp] theorem State.pendJump_f (s : State) (t : Word) : (s.pendJump t).f = s.f := rfl
@[simp] theorem State.pendJump_d (s : State) (t : Word) : (s.pendJump t).d = s.d := rfl
@[simp] theorem State.pendJump_e (s : State) (t : Word) : (s.pendJump t).e = s.e := rfl
@[simp] theorem State.pendJump_m (s : State) (t : Word) : (s.pendJump t).m = s.m := rfl
@[simp] theorem State.pendJump_w (s : State) (t : Word) : (s.pendJump t).w = s.w := rfl
@[simp] theorem State.pendJump_dm (s : State) (t : Word) : (s.pendJump t).dm = s.dm := rfl
@[simp] theorem State.pendJump_store (s : State) (t : Word) : (s.pendJump t).store = s.store := rfl
@[simp] theorem State.pendJump_cfg (s : State) (t : Word) : (s.pendJump t).cfg = s.cfg := rfl
@[simp] theorem State.pendJump_stop (s : State) (t : Word) : (s.pendJump t).stop = s.stop := rfl
@[simp] theorem State.pendJump_turn (s : State) (t : Word) : (s.pendJump t).turn = s.turn := rfl
@[simp] theorem State.pendJump_draws (s : State) (t : Word) : (s.pendJump t).draws = s.draws := rfl

/-! ### atTurn -/

@[simp] theorem State.atTurn_x (s : State) (t : Stage) : (s.atTurn t).x = s.x := rfl
@[simp] theorem State.atTurn_valid (s : State) (t : Stage) : (s.atTurn t).valid = s.valid := rfl
@[simp] theorem State.atTurn_pc (s : State) (t : Stage) : (s.atTurn t).pc = s.pc := rfl
@[simp] theorem State.atTurn_flag (s : State) (t : Stage) : (s.atTurn t).flag = s.flag := rfl
@[simp] theorem State.atTurn_halted (s : State) (t : Stage) : (s.atTurn t).halted = s.halted := rfl
@[simp] theorem State.atTurn_clock (s : State) (t : Stage) : (s.atTurn t).clock = s.clock := rfl
@[simp] theorem State.atTurn_done (s : State) (t : Stage) : (s.atTurn t).done = s.done := rfl
@[simp] theorem State.atTurn_pend (s : State) (t : Stage) : (s.atTurn t).pend = s.pend := rfl
@[simp] theorem State.atTurn_lu (s : State) (t : Stage) : (s.atTurn t).lu = s.lu := rfl
@[simp] theorem State.atTurn_prevRd (s : State) (t : Stage) : (s.atTurn t).prevRd = s.prevRd := rfl
@[simp] theorem State.atTurn_f (s : State) (t : Stage) : (s.atTurn t).f = s.f := rfl
@[simp] theorem State.atTurn_d (s : State) (t : Stage) : (s.atTurn t).d = s.d := rfl
@[simp] theorem State.atTurn_e (s : State) (t : Stage) : (s.atTurn t).e = s.e := rfl
@[simp] theorem State.atTurn_m (s : State) (t : Stage) : (s.atTurn t).m = s.m := rfl
@[simp] theorem State.atTurn_w (s : State) (t : Stage) : (s.atTurn t).w = s.w := rfl
@[simp] theorem State.atTurn_dm (s : State) (t : Stage) : (s.atTurn t).dm = s.dm := rfl
@[simp] theorem State.atTurn_store (s : State) (t : Stage) : (s.atTurn t).store = s.store := rfl
@[simp] theorem State.atTurn_cfg (s : State) (t : Stage) : (s.atTurn t).cfg = s.cfg := rfl
@[simp] theorem State.atTurn_stop (s : State) (t : Stage) : (s.atTurn t).stop = s.stop := rfl
@[simp] theorem State.atTurn_turn (s : State) (t : Stage) : (s.atTurn t).turn = t := rfl
@[simp] theorem State.atTurn_draws (s : State) (t : Stage) : (s.atTurn t).draws = s.draws := rfl

/-! ### copyToWriteback -/

@[simp] theorem State.copyToWriteback_x (s : State) : (s.copyToWriteback).x = s.x := rfl
@[simp] theorem State.copyToWriteback_valid (s : State) : (s.copyToWriteback).valid = s.valid := rfl
@[simp] theorem State.copyToWriteback_pc (s : State) : (s.copyToWriteback).pc = s.pc := rfl
@[simp] theorem State.copyToWriteback_flag (s : State) : (s.copyToWriteback).flag = s.flag := rfl
@[simp] theorem State.copyToWriteback_halted (s : State) : (s.copyToWriteback).halted = s.halted := rfl
@[simp] theorem State.copyToWriteback_clock (s : State) : (s.copyToWriteback).clock = s.clock := rfl
@[simp] theorem State.copyToWriteback_done (s : State) : (s.copyToWriteback).done = s.done := rfl
@[simp] theorem State.copyToWriteback_pend (s : State) : (s.copyToWriteback).pend = s.pend := rfl
@[simp] theorem State.copyToWriteback_lu (s : State) : (s.copyToWriteback).lu = s.lu := rfl
@[simp] theorem State.copyToWriteback_prevRd (s : State) : (s.copyToWriteback).prevRd = s.prevRd := rfl
@[simp] theorem State.copyToWriteback_f (s : State) : (s.copyToWriteback).f = s.f := rfl
@[simp] theorem State.copyToWriteback_d (s : State) : (s.copyToWriteback).d = s.d := rfl
@[simp] theorem State.copyToWriteback_e (s : State) : (s.copyToWriteback).e = s.e := rfl
@[simp] theorem State.copyToWriteback_m (s : State) : (s.copyToWriteback).m = s.m := rfl
@[simp] theorem State.copyToWriteback_w (s : State) : (s.copyToWriteback).w = s.m.copy := rfl
@[simp] theorem State.copyToWriteback_dm (s : State) : (s.copyToWriteback).dm = s.dm := rfl
@[simp] theorem State.copyToWriteback_store (s : State) : (s.copyToWriteback).store = s.store := rfl
@[simp] theorem State.copyToWriteback_cfg (s : State) : (s.copyToWriteback).cfg = s.cfg := rfl
@[simp] theorem State.copyToWriteback_stop (s : State) : (s.copyToWriteback).stop = s.stop := rfl
@[simp] theorem State.copyToWriteback_turn (s : State) : (s.copyToWriteback).turn = s.turn := rfl
@[simp] theorem State.copyToWriteback_draws (s : State) : (s.copyToWriteback).draws = s.draws := rfl

/-! ### copyToMemory -/

@[simp] theorem State.copyToMemory_x (s : State) : (s.copyToMemory).x = s.x := rfl
@[simp] theorem State.copyToMemory_valid (s : State) : (s.copyToMemory).valid = s.valid := rfl
@[simp] theorem State.copyToMemory_pc (s : State) : (s.copyToMemory).pc = s.pc := rfl
@[simp] theorem State.copyToMemory_flag (s : State) : (s.copyToMemory).flag = s.flag := rfl
@[simp] theorem State.copyToMemory_halted (s : State) : (s.copyToMemory).halted = s.halted := rfl
@[simp] theorem State.copyToMemory_clock (s : State) : (s.copyToMemory).clock = s.clock := rfl
@[simp] theorem State.copyToMemory_done (s : State) : (s.copyToMemory).done = s.done := rfl
@[simp] theorem State.copyToMemory_pend (s : State) : (s.copyToMemory).pend = s.pend := rfl
@[simp] theorem State.copyToMemory_lu (s : State) : (s.copyToMemory).lu = s.lu := rfl
@[simp] theorem State.copyToMemory_prevRd (s : State) : (s.copyToMemory).prevRd = s.prevRd := rfl
@[simp] theorem State.copyToMemory_f (s : State) : (s.copyToMemory).f = s.f := rfl
@[simp] theorem State.copyToMemory_d (s : State) : (s.copyToMemory).d = s.d := rfl
@[simp] theorem State.copyToMemory_e (s : State) : (s.copyToMemory).e = s.e := rfl
@[simp] theorem State.copyToMemory_m (s : State) : (s.copyToMemory).m = s.e.copy := rfl
@[simp] theorem State.copyToMemory_w (s : State) : (s.copyToMemory).w = s.w := rfl
@[simp] theorem State.copyToMemory_dm (s : State) : (s.copyToMemory).dm = s.dm := rfl
@[simp] theorem State.copyToMemory_store (s : State) : (s.copyToMemory).store = s.store := rfl
@[simp] theorem State.copyToMemory_cfg (s : State) : (s.copyToMemory).cfg = s.cfg := rfl
@[simp] theorem State.copyToMemory_stop (s : State) : (s.copyToMemory).stop = s.stop := rfl
@[simp] theorem State.copyToMemory_turn (s : State) : (s.copyToMemory).turn = s.turn := rfl
@[simp] theorem State.copyToMemory_draws (s : State) : (s.copyToMemory).draws = s.draws := rfl

/-! ### endCycle -/

@[simp] theorem State.endCycle_x (s : State) : (s.endCycle).x = s.x := rfl
@[simp] theorem State.endCycle_valid (s : State) : (s.endCycle).valid = s.valid := rfl
@[simp] theorem State.endCycle_pc (s : State) : (s.endCycle).pc = s.pc := rfl
@[simp] theorem State.endCycle_flag (s : State) : (s.endCycle).flag = s.flag := rfl
@[simp] theorem State.endCycle_halted (s : State) : (s.endCycle).halted = s.halted := rfl
@[simp] theorem State.endCycle_clock (s : State) : (s.endCycle).clock = s.clock + 1 := rfl
@[simp] theorem State.endCycle_done (s : State) : (s.endCycle).done = s.done := rfl
@[simp] theorem State.endCycle_pend (s : State) : (s.endCycle).pend = s.pend := rfl
@[simp] theorem State.endCycle_lu (s : State) : (s.endCycle).lu = s.lu := rfl
@[simp] theorem State.endCycle_prevRd (s : State) : (s.endCycle).prevRd = s.prevRd := rfl
@[simp] theorem State.endCycle_f (s : State) : (s.endCycle).f = s.f := rfl
@[simp] theorem State.endCycle_d (s : State) : (s.endCycle).d = s.d := rfl
@[simp] theorem State.endCycle_e (s : State) : (s.endCycle).e = s.e := rfl
@[simp] theorem State.endCycle_m (s : State) : (s.endCycle).m = s.m := rfl
@[simp] theorem State.endCycle_w (s : State) : (s.endCycle).w = s.w := rfl
@[simp] theorem State.endCycle_dm (s : State) : (s.endCycle).dm = s.dm := rfl
@[simp] theorem State.endCycle_store (s : State) : (s.endCycle).store = s.store := rfl
@[simp] theorem State.endCycle_cfg (s : State) : (s.endCycle).cfg = s.cfg := rfl
@[simp] theorem State.endCycle_stop (s : State) : (s.endCycle).stop = s.stop := rfl
@[simp] theorem State.endCycle_turn (s : State) : (s.endCycle).turn = .writeback := rfl
@[simp] theorem State.endCycle_draws (s : State) : (s.endCycle).draws = s.draws := rfl

/-! ### atExecute -/

@[simp] theorem State.atExecute_x (s : State) : s.atExecute.x = s.x := rfl
@[simp] theorem State.atExecute_valid (s : State) : s.atExecute.valid = s.valid := rfl
@[simp] theorem State.atExecute_pc (s : State) : s.atExecute.pc = s.pc := rfl
@[simp] theorem State.atExecute_flag (s : State) : s.atExecute.flag = s.flag := rfl
@[simp] theorem State.atExecute_halted (s : State) : s.atExecute.halted = s.halted := rfl
@[simp] theorem State.atExecute_clock (s : State) : s.atExecute.clock = s.clock := rfl
@[simp] theorem State.atExecute_done (s : State) : s.atExecute.done = s.done := rfl
@[simp] theorem State.atExecute_pend (s : State) : s.atExecute.pend = s.pend := rfl
@[simp] theorem State.atExecute_lu (s : State) : s.atExecute.lu = false := rfl
@[simp] theorem State.atExecute_prevRd (s : State) : s.atExecute.prevRd = s.prevRd := rfl
@[simp] theorem State.atExecute_f (s : State) : s.atExecute.f = s.f := rfl
@[simp] theorem State.atExecute_d (s : State) : s.atExecute.d = s.d := rfl
@[simp] theorem State.atExecute_e (s : State) : s.atExecute.e = s.e := rfl
@[simp] theorem State.atExecute_m (s : State) : s.atExecute.m = s.m := rfl
@[simp] theorem State.atExecute_w (s : State) : s.atExecute.w = s.w := rfl
@[simp] theorem State.atExecute_dm (s : State) : s.atExecute.dm = s.dm := rfl
@[simp] theorem State.atExecute_store (s : State) : s.atExecute.store = s.store := rfl
@[simp] theorem State.atExecute_cfg (s : State) : s.atExecute.cfg = s.cfg := rfl
@[simp] theorem State.atExecute_stop (s : State) : s.atExecute.stop = s.stop := rfl
@[simp] theorem State.atExecute_turn (s : State) : s.atExecute.turn = .execute := rfl
@[simp] theorem State.atExecute_draws (s : State) : s.atExecute.draws = s.draws := rfl

/-! ### setValidOpt -/

@[simp] theorem State.setValidOpt_x (s : State) (r : Option Reg) (b : Bool) : (s.setValidOpt r b).x = s.x := by cases r <;> rfl
@[simp] theorem State.setValidOpt_pc (s : State) (r : Option Reg) (b : Bool) : (s.setValidOpt r b).pc = s.pc := by cases r <;> rfl
@[simp] theorem State.setValidOpt_flag (s : State) (r : Option Reg) (b : Bool) : (s.setValidOpt r b).flag = s.flag := by cases r <;> rfl
@[simp] theorem State.setValidOpt_halted (s : State) (r : Option Reg) (b : Bool) : (s.setValidOpt r b).halted = s.halted := by cases r <;> rfl
@[simp] theorem State.setValidOpt_clock (s : State) (r : Option Reg) (b : Bool) : (s.setValidOpt r b).clock = s.clock := by cases r <;> rfl
@[simp] theorem State.setValidOpt_done (s : State) (r : Option Reg) (b : Bool) : (s.setValidOpt r b).done = s.done := by cases r <;> rfl
@[simp] theorem State.setValidOpt_pend (s : State) (r : Option Reg) (b : Bool) : (s.setValidOpt r b).pend = s.pend := by cases r <;> rfl
@[simp] theorem State.setValidOpt_lu (s : State) (r : Option Reg) (b : Bool) : (s.setValidOpt r b).lu = s.lu := by cases r <;> rfl
@[simp] theorem State.setValidOpt_prevRd (s : State) (r : Option Reg) (b : Bool) : (s.setValidOpt r b).prevRd = s.prevRd := by cases r <;> rfl
@[simp] theorem State.setValidOpt_f (s : State) (r : Option Reg) (b : Bool) : (s.setValidOpt r b).f = s.f := by cases r <;> rfl
@[simp] theorem State.setValidOpt_d (s : State) (r : Option Reg) (b : Bool) : (s.setValidOpt r b).d = s.d := by cases r <;> rfl
@[simp] theorem State.setValidOpt_e (s : State) (r : Option Reg) (b : Bool) : (s.setValidOpt r b).e = s.e := by cases r <;> rfl
@[simp] theorem State.setValidOpt_m (s : State) (r : Option Reg) (b : Bool) : (s.setValidOpt r b).m = s.m := by cases r <;> rfl
@[simp] theorem State.setValidOpt_w (s : State) (r : Option Reg) (b : Bool) : (s.setValidOpt r b).w = s.w := by cases r <;> rfl
@[simp] theorem State.setValidOpt_dm (s : State) (r : Option Reg) (b : Bool) : (s.setValidOpt r b).dm = s.dm := by cases r <;> rfl
@[simp] theorem State.setValidOpt_store (s : State) (r : Option Reg) (b : Bool) : (s.setValidOpt r b).store = s.store := by cases r <;> rfl
@[simp] theorem State.setValidOpt_cfg (s : State) (r : Option Reg) (b : Bool) : (s.setValidOpt r b).cfg = s.cfg := by cases r <;> rfl
@[simp] theorem State.setValidOpt_stop (s : State) (r : Option Reg) (b : Bool) : (s.setValidOpt r b).stop = s.stop := by cases r <;> rfl
@[simp] theorem State.setValidOpt_turn (s : State) (r : Option Reg) (b : Bool) : (s.setValidOpt r b).turn = s.turn := by cases r <;> rfl
@[simp] theorem State.setValidOpt_draws (s : State) (r : Option Reg) (b : Bool) : (s.setValidOpt r b).draws = s.draws := by cases r <;> rfl

/-! ### setOperand -/

@[simp] theorem State.setOperand_x (s : State) (slot : Slot) (v : Word) : (s.setOperand slot v).x = s.x := by cases slot <;> rfl
@[simp] theorem State.setOperand_valid (s : State) (slot : Slot) (v : Word) : (s.setOperand slot v).valid = s.valid := by cases slot <;> rfl
@[simp] theorem State.setOperand_pc (s : State) (slot : Slot) (v : Word) : (s.setOperand slot v).pc = s.pc := by cases slot <;> rfl
@[simp] theorem State.setOperand_flag (s : State) (slot : Slot) (v : Word) : (s.setOperand slot v).flag = s.flag := by cases slot <;> rfl
@[simp] theorem State.setOperand_halted (s : State) (slot : Slot) (v : Word) : (s.setOperand slot v).halted = s.halted := by cases slot <;> rfl
@[simp] theorem State.setOperand_clock (s : State) (slot : Slot) (v : Word) : (s.setOperand slot v).clock = s.clock := by cases slot <;> rfl
@[simp] theorem State.setOperand_done (s : State) (slot : Slot) (v : Word) : (s.setOperand slot v).done = s.done := by cases slot <;> rfl
@[simp] theorem State.setOperand_pend (s : State) (slot : Slot) (v : Word) : (s.setOperand slot v).pend = s.pend := by cases slot <;> rfl
@[simp] theorem State.setOperand_lu (s : State) (slot : Slot) (v : Word) : (s.setOperand slot v).lu = s.lu := by cases slot <;> rfl
@[simp] theorem State.setOperand_prevRd (s : State) (slot : Slot) (v : Word) : (s.setOperand slot v).prevRd = s.prevRd := by cases slot <;> rfl
@[simp] theorem State.setOperand_f (s : State) (slot : Slot) (v : Word) : (s.setOperand slot v).f = s.f := by cases slot <;> rfl
@[simp] theorem State.setOperand_e (s : State) (slot : Slot) (v : Word) : (s.setOperand slot v).e = s.e := by cases slot <;> rfl
@[simp] theorem State.setOperand_m (s : State) (slot : Slot) (v : Word) : (s.setOperand slot v).m = s.m := by cases slot <;> rfl
@[simp] theorem State.setOperand_w (s : State) (slot : Slot) (v : Word) : (s.setOperand slot v).w = s.w := by cases slot <;> rfl
@[simp] theorem State.setOperand_dm (s : State) (slot : Slot) (v : Word) : (s.setOperand slot v).dm = s.dm := by cases slot <;> rfl
@[simp] theorem State.setOperand_store (s : State) (slot : Slot) (v : Word) : (s.setOperand slot v).store = s.store := by cases slot <;> rfl
@[simp] theorem State.setOperand_cfg (s : State) (slot : Slot) (v : Word) : (s.setOperand slot v).cfg = s.cfg := by cases slot <;> rfl
@[simp] theorem State.setOperand_stop (s : State) (slot : Slot) (v : Word) : (s.setOperand slot v).stop = s.stop := by cases slot <;> rfl
@[simp] theorem State.setOperand_turn (s : State) (slot : Slot) (v : Word) : (s.setOperand slot v).turn = s.turn := by cases slot <;> rfl
@[simp] theorem State.setOperand_draws (s : State) (slot : Slot) (v : Word) : (s.setOperand slot v).draws = s.draws := by cases slot <;> rfl

/-! ### dropStale -/

@[simp] theorem State.dropStale_x (s : State) (b : Bool) : (s.dropStale b).x = s.x := by cases b <;> rfl
@[simp] theorem State.dropStale_valid (s : State) (b : Bool) : (s.dropStale b).valid = s.valid := by cases b <;> rfl
@[simp] theorem State.dropStale_pc (s : State) (b : Bool) : (s.dropStale b).pc = s.pc := by cases b <;> rfl
@[simp] theorem State.dropStale_flag (s : State) (b : Bool) : (s.dropStale b).flag = s.flag := by cases b <;> rfl
@[simp] theorem State.dropStale_halted (s : State) (b : Bool) : (s.dropStale b).halted = s.halted := by cases b <;> rfl
@[simp] theorem State.dropStale_clock (s : State) (b : Bool) : (s.dropStale b).clock = s.clock := by cases b <;> rfl
@[simp] theorem State.dropStale_done (s : State) (b : Bool) : (s.dropStale b).done = s.done := by cases b <;> rfl
@[simp] theorem State.dropStale_pend (s : State) (b : Bool) : (s.dropStale b).pend = s.pend := by cases b <;> rfl
@[simp] theorem State.dropStale_lu (s : State) (b : Bool) : (s.dropStale b).lu = s.lu := by cases b <;> rfl
@[simp] theorem State.dropStale_prevRd (s : State) (b : Bool) : (s.dropStale b).prevRd = s.prevRd := by cases b <;> rfl
@[simp] theorem State.dropStale_f (s : State) (b : Bool) : (s.dropStale b).f = s.f := by cases b <;> rfl
@[simp] theorem State.dropStale_d (s : State) (b : Bool) : (s.dropStale b).d = s.d := by cases b <;> rfl
@[simp] theorem State.dropStale_e (s : State) (b : Bool) : (s.dropStale b).e = s.e := by cases b <;> rfl
@[simp] theorem State.dropStale_w (s : State) (b : Bool) : (s.dropStale b).w = s.w := by cases b <;> rfl
@[simp] theorem State.dropStale_dm (s : State) (b : Bool) : (s.dropStale b).dm = s.dm := by cases b <;> rfl
@[simp] theorem State.dropStale_store (s : State) (b : Bool) : (s.dropStale b).store = s.store := by cases b <;> rfl
@[simp] theorem State.dropStale_cfg (s : State) (b : Bool) : (s.dropStale b).cfg = s.cfg := by cases b <;> rfl
@[simp] theorem State.dropStale_stop (s : State) (b : Bool) : (s.dropStale b).stop = s.stop := by cases b <;> rfl
@[simp] theorem State.dropStale_turn (s : State) (b : Bool) : (s.dropStale b).turn = s.turn := by cases b <;> rfl
@[simp] theorem State.dropStale_draws (s : State) (b : Bool) : (s.dropStale b).draws = s.draws := by cases b <;> rfl

/-! ### checkComplete -/

@[simp] theorem State.checkComplete_x (s : State) : (s.checkComplete).x = s.x := by unfold State.checkComplete; split <;> rfl
@[simp] theorem State.checkComplete_valid (s : State) : (s.checkComplete).valid = s.valid := by unfold State.checkComplete; split <;> rfl
@[simp] theorem State.checkComplete_pc (s : State) : (s.checkComplete).pc = s.pc := by unfold State.checkComplete; split <;> rfl
@[simp] theorem State.checkComplete_flag (s : State) : (s.checkComplete).flag = s.flag := by unfold State.checkComplete; split <;> rfl
@[simp] theorem State.checkComplete_halted (s : State) : (s.checkComplete).halted = s.halted := by unfold State.checkComplete; split <;> rfl
@[simp] theorem State.checkComplete_clock (s : State) : (s.checkComplete).clock = s.clock := by unfold State.checkComplete; split <;> rfl
@[simp] theorem State.checkComplete_done (s : State) : (s.checkComplete).done = s.done := by unfold State.checkComplete; split <;> rfl
@[simp] theorem State.checkComplete_pend (s : State) : (s.checkComplete).pend = s.pend := by unfold State.checkComplete; split <;> rfl
@[simp] theorem State.checkComplete_lu (s : State) : (s.checkComplete).lu = s.lu := by unfold State.checkComplete; split <;> rfl
@[simp] theorem State.checkComplete_prevRd (s : State) : (s.checkComplete).prevRd = s.prevRd := by unfold State.checkComplete; split <;> rfl
@[simp] theorem State.checkComplete_f (s : State) : (s.checkComplete).f = s.f := by unfold State.checkComplete; split <;> rfl
@[simp] theorem State.checkComplete_d (s : State) : (s.checkComplete).d = s.d := by unfold State.checkComplete; split <;> rfl
@[simp] theorem State.checkComplete_e (s : State) : (s.checkComplete).e = s.e := by unfold State.checkComplete; split <;> rfl
@[simp] theorem State.checkComplete_m (s : State) : (s.checkComplete).m = s.m := by unfold State.checkComplete; split <;> rfl
@[simp] theorem State.checkComplete_w (s : State) : (s.checkComplete).w = s.w := by unfold State.checkComplete; split <;> rfl
@[simp] theorem State.checkComplete_dm (s : State) : (s.checkComplete).dm = s.dm := by unfold State.checkComplete; split <;> rfl
@[simp] theorem State.checkComplete_store (s : State) : (s.checkComplete).store = s.store := by unfold State.checkComplete; split <;> rfl
@[simp] theorem State.checkComplete_cfg (s : State) : (s.checkComplete).cfg = s.cfg := by unfold State.checkComplete; split <;> rfl
@[simp] theorem State.checkComplete_turn (s : State) : (s.checkComplete).turn = s.turn := by unfold State.checkComplete; split <;> rfl
@[simp] theorem State.checkComplete_draws (s : State) : (s.checkComplete).draws = s.draws := by unfold State.checkComplete; split <;> rfl

/-! ### The fields of a copied latch -/

@[simp] theorem Latch.copy_ins (l : Latch) : l.copy.ins = l.ins := rfl
@[simp] theorem Latch.copy_pc (l : Latch) : l.copy.pc = l.pc := rfl
@[simp] theorem Latch.copy_v1 (l : Latch) : l.copy.v1 = l.v1 := rfl
@[simp] theorem Latch.copy_v2 (l : Latch) : l.copy.v2 = l.v2 := rfl
@[simp] theorem Latch.copy_buf (l : Latch) : l.copy.buf = l.buf := rfl
@[simp] theorem Latch.copy_addr (l : Latch) : l.copy.addr = l.addr := rfl
@[simp] theorem Latch.copy_busy (l : Latch) : l.copy.busy = false := rfl
@[simp] theorem Latch.copy_stalled (l : Latch) : l.copy.stalled = false := rfl
@[simp] theorem Latch.copy_reason (l : Latch) : l.copy.reason = none := rfl
@[simp] theorem Latch.copy_released (l : Latch) : l.copy.released = false := rfl
@[simp] theorem Latch.copy_wait (l : Latch) : l.copy.wait = none := rfl
@[simp] theorem Latch.copy_resolve (l : Latch) : l.copy.resolve = l.resolve := rfl
@[simp] theorem Latch.copy_snap (l : Latch) : l.copy.snap = l.snap := rfl

@[simp] theorem Latch.copy_dest (l : Latch) : l.copy.dest = l.dest := rfl
@[simp] theorem Latch.copy_isBranch (l : Latch) : l.copy.isBranch = l.isBranch := rfl
@[simp] theorem Latch.copy_isLoad (l : Latch) : l.copy.isLoad = l.isLoad := rfl
@[simp] theorem Latch.copy_copy (l : Latch) : l.copy.copy = l.copy := rfl

/-! ### The latches of the pipeline's own bubbles -/

@[simp] theorem Latch.empty_dest : Latch.empty.dest = none := rfl
@[simp] theorem Latch.nop_dest : Latch.nop.dest = none := rfl
@[simp] theorem Latch.empty_isBranch : Latch.empty.isBranch = false := rfl
@[simp] theorem Latch.nop_isBranch : Latch.nop.isBranch = false := rfl
@[simp] theorem Latch.empty_copy : Latch.empty.copy = Latch.empty := rfl
@[simp] theorem Latch.nop_copy : Latch.nop.copy = Latch.nop := rfl

/-! ### Reading registers, validity bits and words after an update -/

@[simp] theorem State.reg_setReg_same (s : State) (r : Reg) (v : Word) : (s.setReg r v).reg r = v := by
  simp [State.reg, Vector.get_eq_getElem]

theorem State.reg_setReg_ne (s : State) {r q : Reg} (v : Word) (h : q ≠ r) : (s.setReg r v).reg q = s.reg q := by
  have hv : r.val ≠ q.val := fun e => h (Fin.ext e.symm)
  simp [State.reg, Vector.get_eq_getElem, Vector.getElem_set_ne, hv]

theorem State.reg_setReg (s : State) (r q : Reg) (v : Word) :
    (s.setReg r v).reg q = if q = r then v else s.reg q := by
  by_cases h : q = r
  · subst h; simp
  · simp [State.reg_setReg_ne s v h, h]

@[simp] theorem State.isValid_setValid_same (s : State) (r : Reg) (b : Bool) : (s.setValid r b).isValid r = b := by
  simp [State.isValid, Vector.get_eq_getElem]

theorem State.isValid_setValid_ne (s : State) {r q : Reg} (b : Bool) (h : q ≠ r) :
    (s.setValid r b).isValid q = s.isValid q := by
  have hv : r.val ≠ q.val := fun e => h (Fin.ext e.symm)
  simp [State.isValid, Vector.get_eq_getElem, Vector.getElem_set_ne, hv]

theorem State.isValid_setValid (s : State) (r q : Reg) (b : Bool) :
    (s.setValid r b).isValid q = if q = r then b else s.isValid q := by
  by_cases h : q = r
  · subst h; simp
  · simp [State.isValid_setValid_ne s b h, h]

theorem State.isValid_setValidOpt (s : State) (r : Option Reg) (q : Reg) (b : Bool) :
    (s.setValidOpt r b).isValid q = if r = some q then b else s.isValid q := by
  cases r with
  | none => simp [State.setValidOpt]
  | some r => simp [State.setValidOpt, State.isValid_setValid, eq_comm]

/-- Two states with the same register vector read the same. -/
theorem State.reg_congr {s t : State} (h : t.x = s.x) (r : Reg) : t.reg r = s.reg r := by
  simp [State.reg, h]

/-- Two states with the same validity bits read the same. -/
theorem State.isValid_congr {s t : State} (h : t.valid = s.valid) (r : Reg) : t.isValid r = s.isValid r := by
  simp [State.isValid, h]

/-- Two states with the same data memory read the same. -/
theorem State.word_congr {s t : State} (h : t.dm = s.dm) (k : Nat) : t.word k = s.word k := by
  simp [State.word, h]

end Sys2Proof.Machine
end

