-- ==== Sys2Proof/Laws/Memory.lean ====
section
/-! SUPPORT. The data memory: reading after writing, and the canonical form (20_memory.md R52). -/

namespace Sys2Proof.Machine

@[simp] theorem Memory.read_nil (k : Nat) : Memory.read [] k = Memory.unlisted := rfl

theorem Memory.read_cons (a k : Nat) (v : Word) (m : Memory) :
    Memory.read ((a, v) :: m) k = if a = k then v else Memory.read m k := rfl

/-- An index below every listed one reads as unlisted. -/
theorem Memory.read_below {m : Memory} {k : Nat} (h : m.all (fun p => decide (k < p.1)) = true) :
    Memory.read m k = Memory.unlisted := by
  induction m with
  | nil => rfl
  | cons p m ih =>
    obtain ⟨a, v⟩ := p
    simp only [List.all_cons, Bool.and_eq_true, decide_eq_true_eq] at h
    rw [Memory.read_cons, if_neg (by omega), ih h.2]

theorem Memory.wf_cons_iff (a : Nat) (v : Word) (m : Memory) :
    Memory.wf ((a, v) :: m) = true ↔
      v ≠ Memory.unlisted ∧ m.all (fun p => decide (a < p.1)) = true ∧ Memory.wf m = true := by
  simp [Memory.wf, and_assoc]

theorem Memory.all_above_trans {m : Memory} {j k : Nat} (hjk : j < k)
    (h : m.all (fun p => decide (k < p.1)) = true) : m.all (fun p => decide (j < p.1)) = true := by
  simp only [List.all_eq_true, decide_eq_true_eq] at *
  exact fun p hp => lt_trans hjk (h p hp)

/-- `Memory.cons` in front of larger indexes keeps the canonical form. -/
theorem Memory.wf_cons {m : Memory} {k : Nat} (v : Word) (hm : Memory.wf m = true)
    (hk : m.all (fun p => decide (k < p.1)) = true) : Memory.wf (Memory.cons k v m) = true := by
  unfold Memory.cons
  split
  · exact hm
  · exact (Memory.wf_cons_iff k v m).2 ⟨‹_›, hk, hm⟩

theorem Memory.all_cons_above {m : Memory} {j k : Nat} (v : Word) (hjk : j < k)
    (h : m.all (fun p => decide (j < p.1)) = true) :
    (Memory.cons k v m).all (fun p => decide (j < p.1)) = true := by
  unfold Memory.cons
  split
  · exact h
  · simp only [List.all_cons, Bool.and_eq_true, decide_eq_true_eq]
    exact ⟨hjk, h⟩

theorem Memory.all_write_above {m : Memory} {j k : Nat} (v : Word) (hjk : j < k)
    (h : m.all (fun p => decide (j < p.1)) = true) :
    (Memory.write m k v).all (fun p => decide (j < p.1)) = true := by
  induction m with
  | nil => exact Memory.all_cons_above v hjk h
  | cons p m ih =>
    obtain ⟨a, u⟩ := p
    simp only [List.all_cons, Bool.and_eq_true, decide_eq_true_eq] at h
    simp only [Memory.write]
    split_ifs
    · exact Memory.all_cons_above v hjk (by simpa using h)
    · exact Memory.all_cons_above v hjk h.2
    · simp only [List.all_cons, Bool.and_eq_true, decide_eq_true_eq]
      exact ⟨h.1, ih h.2⟩

/-- A write keeps the canonical form. -/
theorem Memory.wf_write {m : Memory} (k : Nat) (v : Word) (h : Memory.wf m = true) :
    Memory.wf (Memory.write m k v) = true := by
  induction m with
  | nil => exact Memory.wf_cons v rfl rfl
  | cons p m ih =>
    obtain ⟨a, u⟩ := p
    obtain ⟨hu, ha, hm⟩ := (Memory.wf_cons_iff a u m).1 h
    simp only [Memory.write]
    split_ifs with h1 h2
    · refine Memory.wf_cons v h ?_
      simp only [List.all_cons, Bool.and_eq_true, decide_eq_true_eq]
      exact ⟨h1, Memory.all_above_trans h1 ha⟩
    · exact Memory.wf_cons v hm (h2 ▸ ha)
    · exact (Memory.wf_cons_iff a u _).2 ⟨hu, Memory.all_write_above v (by omega) ha, ih hm⟩

/-- A write below `n` keeps every listed index below `n`. -/
theorem Memory.below_write {m : Memory} {n k : Nat} (v : Word) (hk : k < n) (h : Memory.below n m = true) :
    Memory.below n (Memory.write m k v) = true := by
  have hc : ∀ m : Memory, Memory.below n m = true → Memory.below n (Memory.cons k v m) = true := by
    intro m hm
    unfold Memory.cons
    split
    · exact hm
    · simpa [Memory.below, hk] using hm
  induction m with
  | nil => exact hc _ h
  | cons p m ih =>
    obtain ⟨a, u⟩ := p
    have h' : a < n ∧ Memory.below n m = true := by simpa [Memory.below] using h
    simp only [Memory.write]
    split_ifs
    · exact hc _ h
    · exact hc _ h'.2
    · simpa [Memory.below, h'.1] using ih h'.2

/-- In a canonical memory a write is read back. -/
theorem Memory.read_write_same {m : Memory} (k : Nat) (v : Word) (h : Memory.wf m = true) :
    Memory.read (Memory.write m k v) k = v := by
  have hc : ∀ m : Memory, m.all (fun p => decide (k < p.1)) = true → Memory.read (Memory.cons k v m) k = v := by
    intro m hm
    unfold Memory.cons
    split
    · rw [Memory.read_below hm]; exact Eq.symm ‹_›
    · simp [Memory.read_cons]
  induction m with
  | nil => exact hc [] rfl
  | cons p m ih =>
    obtain ⟨a, u⟩ := p
    obtain ⟨-, ha, hm⟩ := (Memory.wf_cons_iff a u m).1 h
    simp only [Memory.write]
    split_ifs with h1 h2
    · refine hc _ ?_
      simp only [List.all_cons, Bool.and_eq_true, decide_eq_true_eq]
      exact ⟨h1, Memory.all_above_trans h1 ha⟩
    · exact hc _ (h2 ▸ ha)
    · rw [Memory.read_cons, if_neg (by omega), ih hm]

/-- A write leaves every other index alone, in any memory whose indexes rise. -/
theorem Memory.read_write_ne {m : Memory} {j k : Nat} (v : Word) (hjk : j ≠ k) :
    Memory.read (Memory.write m k v) j = Memory.read m j := by
  have hc : ∀ m : Memory, Memory.read (Memory.cons k v m) j = Memory.read m j := by
    intro m
    unfold Memory.cons
    split
    · rfl
    · rw [Memory.read_cons, if_neg (Ne.symm hjk)]
  induction m with
  | nil => exact hc []
  | cons p m ih =>
    obtain ⟨a, u⟩ := p
    simp only [Memory.write]
    split_ifs with h1 h2
    · exact hc _
    · rw [hc, Memory.read_cons, if_neg (by omega)]
    · simp only [Memory.read_cons, ih]

/-! ### The same at the level of State -/

theorem State.word_setWord_same {s : State} (k : Nat) (v : Word) (h : s.dm.wf = true) :
    (s.setWord k v).word k = v := Memory.read_write_same k v h

theorem State.word_setWord_ne (s : State) {j k : Nat} (v : Word) (h : j ≠ k) :
    (s.setWord k v).word j = s.word j := Memory.read_write_ne v h

/-- An index that `dmIndex` gives is inside DM. -/
theorem dmIndex_lt {cfg : Config} {a : Word} {i : Nat} (h : dmIndex cfg a = some i) : i < cfg.dmemWords := by
  unfold dmIndex at h
  split at h
  · cases h
  · cases h; omega

/-- A store inside DM keeps the memory legal. -/
theorem memoryLegal_setWord {s : State} {a : Word} {i : Nat} (v : Word) (h : MemoryLegal s)
    (hi : dmIndex s.cfg a = some i) : MemoryLegal (s.setWord i v) :=
  ⟨Memory.wf_write i v h.1, Memory.below_write v (dmIndex_lt hi) h.2⟩

/-- The memory of reset is legal. -/
theorem memoryLegal_reset : MemoryLegal State.reset := ⟨rfl, rfl⟩

/-- A memory built from pairs is canonical. -/
theorem Memory.wf_ofPairs (ps : List (Nat × Word)) : Memory.wf (Memory.ofPairs ps) = true := by
  have h : ∀ (ps : List (Nat × Word)) (m : Memory), Memory.wf m = true →
      Memory.wf (ps.foldl (fun m p => m.write p.1 p.2) m) = true := by
    intro ps
    induction ps with
    | nil => exact fun m h => h
    | cons p ps ih => exact fun m h => ih _ (Memory.wf_write p.1 p.2 h)
  exact h ps [] rfl

end Sys2Proof.Machine
end

