-- ==== Sys2Proof/Laws/Ops.lean ====
section
/-! SUPPORT. What the shared operations can do, said once: how `andThen` ends, and for Decode's, Fetch's and the Memory
stage's operations the fields they leave alone. -/

namespace Sys2Proof.Machine

set_option Elab.async false

/-! ### andThen -/

@[simp] theorem andThen_next (s : State) (k : State → Result) : andThen (.next s) k = k s := rfl
@[simp] theorem andThen_fault (r : Fault) (k : State → Result) : andThen (.fault r) k = .fault r := rfl
@[simp] theorem andThen_refused (r : Refusal) (k : State → Result) : andThen (.refused r) k = .refused r := rfl

theorem andThen_eq_next {o : Result} {k : State → Result} {t : State} :
    andThen o k = .next t ↔ ∃ s, o = .next s ∧ k s = .next t := by
  cases o <;> simp [andThen]

theorem andThen_eq_fault {o : Result} {k : State → Result} {r : Fault} :
    andThen o k = .fault r ↔ o = .fault r ∨ ∃ s, o = .next s ∧ k s = .fault r := by
  cases o <;> simp [andThen]

theorem andThen_eq_refused {o : Result} {k : State → Result} {r : Refusal} :
    andThen o k = .refused r ↔ o = .refused r ∨ ∃ s, o = .next s ∧ k s = .refused r := by
  cases o <;> simp [andThen]

/-! ### Data accesses -/

theorem dmIndex_some {cfg : Config} {a : Word} (h0 : 0 ≤ sint a) (h1 : sint a < (cfg.dmemWords : Int)) :
    dmIndex cfg a = some (sint a).toNat := by
  unfold dmIndex
  rw [if_neg (by omega)]

theorem dmIndex_none {cfg : Config} {a : Word} (h : sint a < 0 ∨ (cfg.dmemWords : Int) ≤ sint a) :
    dmIndex cfg a = none := by
  unfold dmIndex
  rw [if_pos h]

theorem dmIndex_eq_some {cfg : Config} {a : Word} {k : Nat} :
    dmIndex cfg a = some k ↔ sint a = (k : Int) ∧ k < cfg.dmemWords := by
  unfold dmIndex
  split
  · constructor
    · intro h; cases h
    · omega
  · constructor
    · intro h; cases h; omega
    · rintro ⟨h1, h2⟩; simp [h1]

theorem dmIndex_eq_none {cfg : Config} {a : Word} :
    dmIndex cfg a = none ↔ sint a < 0 ∨ (cfg.dmemWords : Int) ≤ sint a := by
  unfold dmIndex
  split <;> simp_all

/-! ### Decode's operations leave these fields alone -/

@[simp] theorem readOperands_x (i : Instr) (s : State) : (readOperands i s).x = s.x := by
  cases i <;> rfl
@[simp] theorem readOperands_pc (i : Instr) (s : State) : (readOperands i s).pc = s.pc := by
  cases i <;> rfl
@[simp] theorem readOperands_flag (i : Instr) (s : State) : (readOperands i s).flag = s.flag := by
  cases i <;> rfl
@[simp] theorem readOperands_halted (i : Instr) (s : State) : (readOperands i s).halted = s.halted := by
  cases i <;> rfl
@[simp] theorem readOperands_clock (i : Instr) (s : State) : (readOperands i s).clock = s.clock := by
  cases i <;> rfl
@[simp] theorem readOperands_done (i : Instr) (s : State) : (readOperands i s).done = s.done := by
  cases i <;> rfl
@[simp] theorem readOperands_pend (i : Instr) (s : State) : (readOperands i s).pend = s.pend := by
  cases i <;> rfl
@[simp] theorem readOperands_f (i : Instr) (s : State) : (readOperands i s).f = s.f := by
  cases i <;> rfl
@[simp] theorem readOperands_m (i : Instr) (s : State) : (readOperands i s).m = s.m := by
  cases i <;> rfl
@[simp] theorem readOperands_w (i : Instr) (s : State) : (readOperands i s).w = s.w := by
  cases i <;> rfl
@[simp] theorem readOperands_dm (i : Instr) (s : State) : (readOperands i s).dm = s.dm := by
  cases i <;> rfl
@[simp] theorem readOperands_store (i : Instr) (s : State) : (readOperands i s).store = s.store := by
  cases i <;> rfl
@[simp] theorem readOperands_cfg (i : Instr) (s : State) : (readOperands i s).cfg = s.cfg := by
  cases i <;> rfl
@[simp] theorem readOperands_stop (i : Instr) (s : State) : (readOperands i s).stop = s.stop := by
  cases i <;> rfl
@[simp] theorem readOperands_turn (i : Instr) (s : State) : (readOperands i s).turn = s.turn := by
  cases i <;> rfl
@[simp] theorem readOperands_draws (i : Instr) (s : State) : (readOperands i s).draws = s.draws := by
  cases i <;> rfl
@[simp] theorem readOperands_valid (i : Instr) (s : State) : (readOperands i s).valid = s.valid := by
  cases i <;> rfl
@[simp] theorem readOperands_lu (i : Instr) (s : State) : (readOperands i s).lu = s.lu := by
  cases i <;> rfl
@[simp] theorem readOperands_prevRd (i : Instr) (s : State) : (readOperands i s).prevRd = s.prevRd := by
  cases i <;> rfl
@[simp] theorem readOperands_e (i : Instr) (s : State) : (readOperands i s).e = s.e := by
  cases i <;> rfl
@[simp] theorem readOperands_d_ins (i : Instr) (s : State) : (readOperands i s).d.ins = s.d.ins := by
  cases i <;> rfl
@[simp] theorem readOperands_d_pc (i : Instr) (s : State) : (readOperands i s).d.pc = s.d.pc := by
  cases i <;> rfl
@[simp] theorem readOperands_d_buf (i : Instr) (s : State) : (readOperands i s).d.buf = s.d.buf := by
  cases i <;> rfl
@[simp] theorem readOperands_d_addr (i : Instr) (s : State) : (readOperands i s).d.addr = s.d.addr := by
  cases i <;> rfl
@[simp] theorem readOperands_d_busy (i : Instr) (s : State) : (readOperands i s).d.busy = s.d.busy := by
  cases i <;> rfl
@[simp] theorem readOperands_d_stalled (i : Instr) (s : State) : (readOperands i s).d.stalled = s.d.stalled := by
  cases i <;> rfl
@[simp] theorem readOperands_d_reason (i : Instr) (s : State) : (readOperands i s).d.reason = s.d.reason := by
  cases i <;> rfl
@[simp] theorem readOperands_d_released (i : Instr) (s : State) : (readOperands i s).d.released = s.d.released := by
  cases i <;> rfl
@[simp] theorem readOperands_d_wait (i : Instr) (s : State) : (readOperands i s).d.wait = s.d.wait := by
  cases i <;> rfl
@[simp] theorem readOperands_d_resolve (i : Instr) (s : State) : (readOperands i s).d.resolve = s.d.resolve := by
  cases i <;> rfl
@[simp] theorem readOperands_d_snap (i : Instr) (s : State) : (readOperands i s).d.snap = s.d.snap := by
  cases i <;> rfl

@[simp] theorem dispatch_x (i : Instr) (s : State) : (dispatch i s).x = s.x := by
  simp [dispatch]
@[simp] theorem dispatch_pc (i : Instr) (s : State) : (dispatch i s).pc = s.pc := by
  simp [dispatch]
@[simp] theorem dispatch_flag (i : Instr) (s : State) : (dispatch i s).flag = s.flag := by
  simp [dispatch]
@[simp] theorem dispatch_halted (i : Instr) (s : State) : (dispatch i s).halted = s.halted := by
  simp [dispatch]
@[simp] theorem dispatch_clock (i : Instr) (s : State) : (dispatch i s).clock = s.clock := by
  simp [dispatch]
@[simp] theorem dispatch_done (i : Instr) (s : State) : (dispatch i s).done = s.done := by
  simp [dispatch]
@[simp] theorem dispatch_pend (i : Instr) (s : State) : (dispatch i s).pend = s.pend := by
  simp [dispatch]
@[simp] theorem dispatch_f (i : Instr) (s : State) : (dispatch i s).f = s.f := by
  simp [dispatch]
@[simp] theorem dispatch_m (i : Instr) (s : State) : (dispatch i s).m = s.m := by
  simp [dispatch]
@[simp] theorem dispatch_w (i : Instr) (s : State) : (dispatch i s).w = s.w := by
  simp [dispatch]
@[simp] theorem dispatch_dm (i : Instr) (s : State) : (dispatch i s).dm = s.dm := by
  simp [dispatch]
@[simp] theorem dispatch_store (i : Instr) (s : State) : (dispatch i s).store = s.store := by
  simp [dispatch]
@[simp] theorem dispatch_cfg (i : Instr) (s : State) : (dispatch i s).cfg = s.cfg := by
  simp [dispatch]
@[simp] theorem dispatch_stop (i : Instr) (s : State) : (dispatch i s).stop = s.stop := by
  simp [dispatch]
@[simp] theorem dispatch_turn (i : Instr) (s : State) : (dispatch i s).turn = s.turn := by
  simp [dispatch]
@[simp] theorem dispatch_draws (i : Instr) (s : State) : (dispatch i s).draws = s.draws := by
  simp [dispatch]
@[simp] theorem dispatch_d (i : Instr) (s : State) : (dispatch i s).d = s.d := by
  simp [dispatch]
@[simp] theorem dispatch_e (i : Instr) (s : State) : (dispatch i s).e = s.d.copy := by
  simp [dispatch]
@[simp] theorem dispatch_lu (i : Instr) (s : State) : (dispatch i s).lu = s.lu := by
  simp [dispatch]

@[simp] theorem dispatchOrDefer_x (i : Instr) (s : State) : (dispatchOrDefer i s).x = s.x := by
  unfold dispatchOrDefer; split <;> simp
@[simp] theorem dispatchOrDefer_pc (i : Instr) (s : State) : (dispatchOrDefer i s).pc = s.pc := by
  unfold dispatchOrDefer; split <;> simp
@[simp] theorem dispatchOrDefer_flag (i : Instr) (s : State) : (dispatchOrDefer i s).flag = s.flag := by
  unfold dispatchOrDefer; split <;> simp
@[simp] theorem dispatchOrDefer_halted (i : Instr) (s : State) : (dispatchOrDefer i s).halted = s.halted := by
  unfold dispatchOrDefer; split <;> simp
@[simp] theorem dispatchOrDefer_clock (i : Instr) (s : State) : (dispatchOrDefer i s).clock = s.clock := by
  unfold dispatchOrDefer; split <;> simp
@[simp] theorem dispatchOrDefer_done (i : Instr) (s : State) : (dispatchOrDefer i s).done = s.done := by
  unfold dispatchOrDefer; split <;> simp
@[simp] theorem dispatchOrDefer_pend (i : Instr) (s : State) : (dispatchOrDefer i s).pend = s.pend := by
  unfold dispatchOrDefer; split <;> simp
@[simp] theorem dispatchOrDefer_f (i : Instr) (s : State) : (dispatchOrDefer i s).f = s.f := by
  unfold dispatchOrDefer; split <;> simp
@[simp] theorem dispatchOrDefer_m (i : Instr) (s : State) : (dispatchOrDefer i s).m = s.m := by
  unfold dispatchOrDefer; split <;> simp
@[simp] theorem dispatchOrDefer_w (i : Instr) (s : State) : (dispatchOrDefer i s).w = s.w := by
  unfold dispatchOrDefer; split <;> simp
@[simp] theorem dispatchOrDefer_dm (i : Instr) (s : State) : (dispatchOrDefer i s).dm = s.dm := by
  unfold dispatchOrDefer; split <;> simp
@[simp] theorem dispatchOrDefer_store (i : Instr) (s : State) : (dispatchOrDefer i s).store = s.store := by
  unfold dispatchOrDefer; split <;> simp
@[simp] theorem dispatchOrDefer_cfg (i : Instr) (s : State) : (dispatchOrDefer i s).cfg = s.cfg := by
  unfold dispatchOrDefer; split <;> simp
@[simp] theorem dispatchOrDefer_stop (i : Instr) (s : State) : (dispatchOrDefer i s).stop = s.stop := by
  unfold dispatchOrDefer; split <;> simp
@[simp] theorem dispatchOrDefer_turn (i : Instr) (s : State) : (dispatchOrDefer i s).turn = s.turn := by
  unfold dispatchOrDefer; split <;> simp
@[simp] theorem dispatchOrDefer_draws (i : Instr) (s : State) : (dispatchOrDefer i s).draws = s.draws := by
  unfold dispatchOrDefer; split <;> simp

@[simp] theorem forwardAll_x (i : Instr) (l : List (Slot × Reg)) (s : State) :
    (forwardAll i l s).x = s.x := by
  induction l generalizing s with
  | nil => simp [forwardAll]
  | cons p l ih =>
    simp only [forwardAll]; repeat' split
    all_goals simp [ih]
@[simp] theorem forwardAll_pc (i : Instr) (l : List (Slot × Reg)) (s : State) :
    (forwardAll i l s).pc = s.pc := by
  induction l generalizing s with
  | nil => simp [forwardAll]
  | cons p l ih =>
    simp only [forwardAll]; repeat' split
    all_goals simp [ih]
@[simp] theorem forwardAll_flag (i : Instr) (l : List (Slot × Reg)) (s : State) :
    (forwardAll i l s).flag = s.flag := by
  induction l generalizing s with
  | nil => simp [forwardAll]
  | cons p l ih =>
    simp only [forwardAll]; repeat' split
    all_goals simp [ih]
@[simp] theorem forwardAll_halted (i : Instr) (l : List (Slot × Reg)) (s : State) :
    (forwardAll i l s).halted = s.halted := by
  induction l generalizing s with
  | nil => simp [forwardAll]
  | cons p l ih =>
    simp only [forwardAll]; repeat' split
    all_goals simp [ih]
@[simp] theorem forwardAll_clock (i : Instr) (l : List (Slot × Reg)) (s : State) :
    (forwardAll i l s).clock = s.clock := by
  induction l generalizing s with
  | nil => simp [forwardAll]
  | cons p l ih =>
    simp only [forwardAll]; repeat' split
    all_goals simp [ih]
@[simp] theorem forwardAll_done (i : Instr) (l : List (Slot × Reg)) (s : State) :
    (forwardAll i l s).done = s.done := by
  induction l generalizing s with
  | nil => simp [forwardAll]
  | cons p l ih =>
    simp only [forwardAll]; repeat' split
    all_goals simp [ih]
@[simp] theorem forwardAll_pend (i : Instr) (l : List (Slot × Reg)) (s : State) :
    (forwardAll i l s).pend = s.pend := by
  induction l generalizing s with
  | nil => simp [forwardAll]
  | cons p l ih =>
    simp only [forwardAll]; repeat' split
    all_goals simp [ih]
@[simp] theorem forwardAll_f (i : Instr) (l : List (Slot × Reg)) (s : State) :
    (forwardAll i l s).f = s.f := by
  induction l generalizing s with
  | nil => simp [forwardAll]
  | cons p l ih =>
    simp only [forwardAll]; repeat' split
    all_goals simp [ih]
@[simp] theorem forwardAll_m (i : Instr) (l : List (Slot × Reg)) (s : State) :
    (forwardAll i l s).m = s.m := by
  induction l generalizing s with
  | nil => simp [forwardAll]
  | cons p l ih =>
    simp only [forwardAll]; repeat' split
    all_goals simp [ih]
@[simp] theorem forwardAll_w (i : Instr) (l : List (Slot × Reg)) (s : State) :
    (forwardAll i l s).w = s.w := by
  induction l generalizing s with
  | nil => simp [forwardAll]
  | cons p l ih =>
    simp only [forwardAll]; repeat' split
    all_goals simp [ih]
@[simp] theorem forwardAll_dm (i : Instr) (l : List (Slot × Reg)) (s : State) :
    (forwardAll i l s).dm = s.dm := by
  induction l generalizing s with
  | nil => simp [forwardAll]
  | cons p l ih =>
    simp only [forwardAll]; repeat' split
    all_goals simp [ih]
@[simp] theorem forwardAll_store (i : Instr) (l : List (Slot × Reg)) (s : State) :
    (forwardAll i l s).store = s.store := by
  induction l generalizing s with
  | nil => simp [forwardAll]
  | cons p l ih =>
    simp only [forwardAll]; repeat' split
    all_goals simp [ih]
@[simp] theorem forwardAll_cfg (i : Instr) (l : List (Slot × Reg)) (s : State) :
    (forwardAll i l s).cfg = s.cfg := by
  induction l generalizing s with
  | nil => simp [forwardAll]
  | cons p l ih =>
    simp only [forwardAll]; repeat' split
    all_goals simp [ih]
@[simp] theorem forwardAll_stop (i : Instr) (l : List (Slot × Reg)) (s : State) :
    (forwardAll i l s).stop = s.stop := by
  induction l generalizing s with
  | nil => simp [forwardAll]
  | cons p l ih =>
    simp only [forwardAll]; repeat' split
    all_goals simp [ih]
@[simp] theorem forwardAll_turn (i : Instr) (l : List (Slot × Reg)) (s : State) :
    (forwardAll i l s).turn = s.turn := by
  induction l generalizing s with
  | nil => simp [forwardAll]
  | cons p l ih =>
    simp only [forwardAll]; repeat' split
    all_goals simp [ih]
@[simp] theorem forwardAll_draws (i : Instr) (l : List (Slot × Reg)) (s : State) :
    (forwardAll i l s).draws = s.draws := by
  induction l generalizing s with
  | nil => simp [forwardAll]
  | cons p l ih =>
    simp only [forwardAll]; repeat' split
    all_goals simp [ih]

@[simp] theorem issue_x (i : Instr) (s : State) : (issue i s).x = s.x := by
  simp only [issue]; repeat' split
  all_goals simp
@[simp] theorem issue_pc (i : Instr) (s : State) : (issue i s).pc = s.pc := by
  simp only [issue]; repeat' split
  all_goals simp
@[simp] theorem issue_flag (i : Instr) (s : State) : (issue i s).flag = s.flag := by
  simp only [issue]; repeat' split
  all_goals simp
@[simp] theorem issue_halted (i : Instr) (s : State) : (issue i s).halted = s.halted := by
  simp only [issue]; repeat' split
  all_goals simp
@[simp] theorem issue_clock (i : Instr) (s : State) : (issue i s).clock = s.clock := by
  simp only [issue]; repeat' split
  all_goals simp
@[simp] theorem issue_done (i : Instr) (s : State) : (issue i s).done = s.done := by
  simp only [issue]; repeat' split
  all_goals simp
@[simp] theorem issue_pend (i : Instr) (s : State) : (issue i s).pend = s.pend := by
  simp only [issue]; repeat' split
  all_goals simp
@[simp] theorem issue_f (i : Instr) (s : State) : (issue i s).f = s.f := by
  simp only [issue]; repeat' split
  all_goals simp
@[simp] theorem issue_m (i : Instr) (s : State) : (issue i s).m = s.m := by
  simp only [issue]; repeat' split
  all_goals simp
@[simp] theorem issue_w (i : Instr) (s : State) : (issue i s).w = s.w := by
  simp only [issue]; repeat' split
  all_goals simp
@[simp] theorem issue_dm (i : Instr) (s : State) : (issue i s).dm = s.dm := by
  simp only [issue]; repeat' split
  all_goals simp
@[simp] theorem issue_store (i : Instr) (s : State) : (issue i s).store = s.store := by
  simp only [issue]; repeat' split
  all_goals simp
@[simp] theorem issue_cfg (i : Instr) (s : State) : (issue i s).cfg = s.cfg := by
  simp only [issue]; repeat' split
  all_goals simp
@[simp] theorem issue_stop (i : Instr) (s : State) : (issue i s).stop = s.stop := by
  simp only [issue]; repeat' split
  all_goals simp
@[simp] theorem issue_turn (i : Instr) (s : State) : (issue i s).turn = s.turn := by
  simp only [issue]; repeat' split
  all_goals simp
@[simp] theorem issue_draws (i : Instr) (s : State) : (issue i s).draws = s.draws := by
  simp only [issue]; repeat' split
  all_goals simp

@[simp] theorem issueFetchFault_x (s : State) : (issueFetchFault s).x = s.x := by
  unfold issueFetchFault; split <;> simp
@[simp] theorem issueFetchFault_pc (s : State) : (issueFetchFault s).pc = s.pc := by
  unfold issueFetchFault; split <;> simp
@[simp] theorem issueFetchFault_flag (s : State) : (issueFetchFault s).flag = s.flag := by
  unfold issueFetchFault; split <;> simp
@[simp] theorem issueFetchFault_halted (s : State) : (issueFetchFault s).halted = s.halted := by
  unfold issueFetchFault; split <;> simp
@[simp] theorem issueFetchFault_clock (s : State) : (issueFetchFault s).clock = s.clock := by
  unfold issueFetchFault; split <;> simp
@[simp] theorem issueFetchFault_done (s : State) : (issueFetchFault s).done = s.done := by
  unfold issueFetchFault; split <;> simp
@[simp] theorem issueFetchFault_pend (s : State) : (issueFetchFault s).pend = s.pend := by
  unfold issueFetchFault; split <;> simp
@[simp] theorem issueFetchFault_f (s : State) : (issueFetchFault s).f = s.f := by
  unfold issueFetchFault; split <;> simp
@[simp] theorem issueFetchFault_m (s : State) : (issueFetchFault s).m = s.m := by
  unfold issueFetchFault; split <;> simp
@[simp] theorem issueFetchFault_w (s : State) : (issueFetchFault s).w = s.w := by
  unfold issueFetchFault; split <;> simp
@[simp] theorem issueFetchFault_dm (s : State) : (issueFetchFault s).dm = s.dm := by
  unfold issueFetchFault; split <;> simp
@[simp] theorem issueFetchFault_store (s : State) : (issueFetchFault s).store = s.store := by
  unfold issueFetchFault; split <;> simp
@[simp] theorem issueFetchFault_cfg (s : State) : (issueFetchFault s).cfg = s.cfg := by
  unfold issueFetchFault; split <;> simp
@[simp] theorem issueFetchFault_stop (s : State) : (issueFetchFault s).stop = s.stop := by
  unfold issueFetchFault; split <;> simp
@[simp] theorem issueFetchFault_turn (s : State) : (issueFetchFault s).turn = s.turn := by
  unfold issueFetchFault; split <;> simp
@[simp] theorem issueFetchFault_draws (s : State) : (issueFetchFault s).draws = s.draws := by
  unfold issueFetchFault; split <;> simp
@[simp] theorem issueFetchFault_valid (s : State) : (issueFetchFault s).valid = s.valid := by
  unfold issueFetchFault; split <;> simp
@[simp] theorem issueFetchFault_prevRd (s : State) : (issueFetchFault s).prevRd = s.prevRd := by
  unfold issueFetchFault; split <;> simp
@[simp] theorem issueFetchFault_lu (s : State) : (issueFetchFault s).lu = s.lu := by
  unfold issueFetchFault; split <;> simp

@[simp] theorem preCheck1_x (s : State) : (preCheck1 s).x = s.x := by
  unfold preCheck1; split <;> simp
@[simp] theorem preCheck1_valid (s : State) : (preCheck1 s).valid = s.valid := by
  unfold preCheck1; split <;> simp
@[simp] theorem preCheck1_pc (s : State) : (preCheck1 s).pc = s.pc := by
  unfold preCheck1; split <;> simp
@[simp] theorem preCheck1_flag (s : State) : (preCheck1 s).flag = s.flag := by
  unfold preCheck1; split <;> simp
@[simp] theorem preCheck1_halted (s : State) : (preCheck1 s).halted = s.halted := by
  unfold preCheck1; split <;> simp
@[simp] theorem preCheck1_clock (s : State) : (preCheck1 s).clock = s.clock := by
  unfold preCheck1; split <;> simp
@[simp] theorem preCheck1_done (s : State) : (preCheck1 s).done = s.done := by
  unfold preCheck1; split <;> simp
@[simp] theorem preCheck1_pend (s : State) : (preCheck1 s).pend = s.pend := by
  unfold preCheck1; split <;> simp
@[simp] theorem preCheck1_lu (s : State) : (preCheck1 s).lu = s.lu := by
  unfold preCheck1; split <;> simp
@[simp] theorem preCheck1_prevRd (s : State) : (preCheck1 s).prevRd = s.prevRd := by
  unfold preCheck1; split <;> simp
@[simp] theorem preCheck1_f (s : State) : (preCheck1 s).f = s.f := by
  unfold preCheck1; split <;> simp
@[simp] theorem preCheck1_e (s : State) : (preCheck1 s).e = s.e := by
  unfold preCheck1; split <;> simp
@[simp] theorem preCheck1_m (s : State) : (preCheck1 s).m = s.m := by
  unfold preCheck1; split <;> simp
@[simp] theorem preCheck1_w (s : State) : (preCheck1 s).w = s.w := by
  unfold preCheck1; split <;> simp
@[simp] theorem preCheck1_dm (s : State) : (preCheck1 s).dm = s.dm := by
  unfold preCheck1; split <;> simp
@[simp] theorem preCheck1_store (s : State) : (preCheck1 s).store = s.store := by
  unfold preCheck1; split <;> simp
@[simp] theorem preCheck1_cfg (s : State) : (preCheck1 s).cfg = s.cfg := by
  unfold preCheck1; split <;> simp
@[simp] theorem preCheck1_stop (s : State) : (preCheck1 s).stop = s.stop := by
  unfold preCheck1; split <;> simp
@[simp] theorem preCheck1_turn (s : State) : (preCheck1 s).turn = s.turn := by
  unfold preCheck1; split <;> simp
@[simp] theorem preCheck1_draws (s : State) : (preCheck1 s).draws = s.draws := by
  unfold preCheck1; split <;> simp
@[simp] theorem preCheck2_x (s : State) : (preCheck2 s).x = s.x := by
  unfold preCheck2; split <;> simp
@[simp] theorem preCheck2_valid (s : State) : (preCheck2 s).valid = s.valid := by
  unfold preCheck2; split <;> simp
@[simp] theorem preCheck2_pc (s : State) : (preCheck2 s).pc = s.pc := by
  unfold preCheck2; split <;> simp
@[simp] theorem preCheck2_flag (s : State) : (preCheck2 s).flag = s.flag := by
  unfold preCheck2; split <;> simp
@[simp] theorem preCheck2_halted (s : State) : (preCheck2 s).halted = s.halted := by
  unfold preCheck2; split <;> simp
@[simp] theorem preCheck2_clock (s : State) : (preCheck2 s).clock = s.clock := by
  unfold preCheck2; split <;> simp
@[simp] theorem preCheck2_done (s : State) : (preCheck2 s).done = s.done := by
  unfold preCheck2; split <;> simp
@[simp] theorem preCheck2_pend (s : State) : (preCheck2 s).pend = s.pend := by
  unfold preCheck2; split <;> simp
@[simp] theorem preCheck2_lu (s : State) : (preCheck2 s).lu = s.lu := by
  unfold preCheck2; split <;> simp
@[simp] theorem preCheck2_prevRd (s : State) : (preCheck2 s).prevRd = s.prevRd := by
  unfold preCheck2; split <;> simp
@[simp] theorem preCheck2_f (s : State) : (preCheck2 s).f = s.f := by
  unfold preCheck2; split <;> simp
@[simp] theorem preCheck2_e (s : State) : (preCheck2 s).e = s.e := by
  unfold preCheck2; split <;> simp
@[simp] theorem preCheck2_m (s : State) : (preCheck2 s).m = s.m := by
  unfold preCheck2; split <;> simp
@[simp] theorem preCheck2_w (s : State) : (preCheck2 s).w = s.w := by
  unfold preCheck2; split <;> simp
@[simp] theorem preCheck2_dm (s : State) : (preCheck2 s).dm = s.dm := by
  unfold preCheck2; split <;> simp
@[simp] theorem preCheck2_store (s : State) : (preCheck2 s).store = s.store := by
  unfold preCheck2; split <;> simp
@[simp] theorem preCheck2_cfg (s : State) : (preCheck2 s).cfg = s.cfg := by
  unfold preCheck2; split <;> simp
@[simp] theorem preCheck2_stop (s : State) : (preCheck2 s).stop = s.stop := by
  unfold preCheck2; split <;> simp
@[simp] theorem preCheck2_turn (s : State) : (preCheck2 s).turn = s.turn := by
  unfold preCheck2; split <;> simp
@[simp] theorem preCheck2_draws (s : State) : (preCheck2 s).draws = s.draws := by
  unfold preCheck2; split <;> simp
@[simp] theorem preCheck3_x (s : State) : (preCheck3 s).x = s.x := by
  unfold preCheck3; split <;> simp
@[simp] theorem preCheck3_valid (s : State) : (preCheck3 s).valid = s.valid := by
  unfold preCheck3; split <;> simp
@[simp] theorem preCheck3_pc (s : State) : (preCheck3 s).pc = s.pc := by
  unfold preCheck3; split <;> simp
@[simp] theorem preCheck3_flag (s : State) : (preCheck3 s).flag = s.flag := by
  unfold preCheck3; split <;> simp
@[simp] theorem preCheck3_halted (s : State) : (preCheck3 s).halted = s.halted := by
  unfold preCheck3; split <;> simp
@[simp] theorem preCheck3_clock (s : State) : (preCheck3 s).clock = s.clock := by
  unfold preCheck3; split <;> simp
@[simp] theorem preCheck3_done (s : State) : (preCheck3 s).done = s.done := by
  unfold preCheck3; split <;> simp
@[simp] theorem preCheck3_pend (s : State) : (preCheck3 s).pend = s.pend := by
  unfold preCheck3; split <;> simp
@[simp] theorem preCheck3_lu (s : State) : (preCheck3 s).lu = s.lu := by
  unfold preCheck3; split <;> simp
@[simp] theorem preCheck3_prevRd (s : State) : (preCheck3 s).prevRd = s.prevRd := by
  unfold preCheck3; split <;> simp
@[simp] theorem preCheck3_f (s : State) : (preCheck3 s).f = s.f := by
  unfold preCheck3; split <;> simp
@[simp] theorem preCheck3_e (s : State) : (preCheck3 s).e = s.e := by
  unfold preCheck3; split <;> simp
@[simp] theorem preCheck3_m (s : State) : (preCheck3 s).m = s.m := by
  unfold preCheck3; split <;> simp
@[simp] theorem preCheck3_w (s : State) : (preCheck3 s).w = s.w := by
  unfold preCheck3; split <;> simp
@[simp] theorem preCheck3_dm (s : State) : (preCheck3 s).dm = s.dm := by
  unfold preCheck3; split <;> simp
@[simp] theorem preCheck3_store (s : State) : (preCheck3 s).store = s.store := by
  unfold preCheck3; split <;> simp
@[simp] theorem preCheck3_cfg (s : State) : (preCheck3 s).cfg = s.cfg := by
  unfold preCheck3; split <;> simp
@[simp] theorem preCheck3_stop (s : State) : (preCheck3 s).stop = s.stop := by
  unfold preCheck3; split <;> simp
@[simp] theorem preCheck3_turn (s : State) : (preCheck3 s).turn = s.turn := by
  unfold preCheck3; split <;> simp
@[simp] theorem preCheck3_draws (s : State) : (preCheck3 s).draws = s.draws := by
  unfold preCheck3; split <;> simp
@[simp] theorem preCheck4_x (s : State) : (preCheck4 s).x = s.x := by
  unfold preCheck4; split <;> simp
@[simp] theorem preCheck4_valid (s : State) : (preCheck4 s).valid = s.valid := by
  unfold preCheck4; split <;> simp
@[simp] theorem preCheck4_pc (s : State) : (preCheck4 s).pc = s.pc := by
  unfold preCheck4; split <;> simp
@[simp] theorem preCheck4_flag (s : State) : (preCheck4 s).flag = s.flag := by
  unfold preCheck4; split <;> simp
@[simp] theorem preCheck4_halted (s : State) : (preCheck4 s).halted = s.halted := by
  unfold preCheck4; split <;> simp
@[simp] theorem preCheck4_clock (s : State) : (preCheck4 s).clock = s.clock := by
  unfold preCheck4; split <;> simp
@[simp] theorem preCheck4_done (s : State) : (preCheck4 s).done = s.done := by
  unfold preCheck4; split <;> simp
@[simp] theorem preCheck4_pend (s : State) : (preCheck4 s).pend = s.pend := by
  unfold preCheck4; split <;> simp
@[simp] theorem preCheck4_lu (s : State) : (preCheck4 s).lu = s.lu := by
  unfold preCheck4; split <;> simp
@[simp] theorem preCheck4_prevRd (s : State) : (preCheck4 s).prevRd = s.prevRd := by
  unfold preCheck4; split <;> simp
@[simp] theorem preCheck4_f (s : State) : (preCheck4 s).f = s.f := by
  unfold preCheck4; split <;> simp
@[simp] theorem preCheck4_e (s : State) : (preCheck4 s).e = s.e := by
  unfold preCheck4; split <;> simp
@[simp] theorem preCheck4_m (s : State) : (preCheck4 s).m = s.m := by
  unfold preCheck4; split <;> simp
@[simp] theorem preCheck4_w (s : State) : (preCheck4 s).w = s.w := by
  unfold preCheck4; split <;> simp
@[simp] theorem preCheck4_dm (s : State) : (preCheck4 s).dm = s.dm := by
  unfold preCheck4; split <;> simp
@[simp] theorem preCheck4_store (s : State) : (preCheck4 s).store = s.store := by
  unfold preCheck4; split <;> simp
@[simp] theorem preCheck4_cfg (s : State) : (preCheck4 s).cfg = s.cfg := by
  unfold preCheck4; split <;> simp
@[simp] theorem preCheck4_stop (s : State) : (preCheck4 s).stop = s.stop := by
  unfold preCheck4; split <;> simp
@[simp] theorem preCheck4_turn (s : State) : (preCheck4 s).turn = s.turn := by
  unfold preCheck4; split <;> simp
@[simp] theorem preCheck4_draws (s : State) : (preCheck4 s).draws = s.draws := by
  unfold preCheck4; split <;> simp
@[simp] theorem preChecks_x (s : State) : (preChecks s).x = s.x := by
  simp [preChecks]
@[simp] theorem preChecks_valid (s : State) : (preChecks s).valid = s.valid := by
  simp [preChecks]
@[simp] theorem preChecks_pc (s : State) : (preChecks s).pc = s.pc := by
  simp [preChecks]
@[simp] theorem preChecks_flag (s : State) : (preChecks s).flag = s.flag := by
  simp [preChecks]
@[simp] theorem preChecks_halted (s : State) : (preChecks s).halted = s.halted := by
  simp [preChecks]
@[simp] theorem preChecks_clock (s : State) : (preChecks s).clock = s.clock := by
  simp [preChecks]
@[simp] theorem preChecks_done (s : State) : (preChecks s).done = s.done := by
  simp [preChecks]
@[simp] theorem preChecks_pend (s : State) : (preChecks s).pend = s.pend := by
  simp [preChecks]
@[simp] theorem preChecks_lu (s : State) : (preChecks s).lu = s.lu := by
  simp [preChecks]
@[simp] theorem preChecks_prevRd (s : State) : (preChecks s).prevRd = s.prevRd := by
  simp [preChecks]
@[simp] theorem preChecks_f (s : State) : (preChecks s).f = s.f := by
  simp [preChecks]
@[simp] theorem preChecks_e (s : State) : (preChecks s).e = s.e := by
  simp [preChecks]
@[simp] theorem preChecks_m (s : State) : (preChecks s).m = s.m := by
  simp [preChecks]
@[simp] theorem preChecks_w (s : State) : (preChecks s).w = s.w := by
  simp [preChecks]
@[simp] theorem preChecks_dm (s : State) : (preChecks s).dm = s.dm := by
  simp [preChecks]
@[simp] theorem preChecks_store (s : State) : (preChecks s).store = s.store := by
  simp [preChecks]
@[simp] theorem preChecks_cfg (s : State) : (preChecks s).cfg = s.cfg := by
  simp [preChecks]
@[simp] theorem preChecks_stop (s : State) : (preChecks s).stop = s.stop := by
  simp [preChecks]
@[simp] theorem preChecks_turn (s : State) : (preChecks s).turn = s.turn := by
  simp [preChecks]
@[simp] theorem preChecks_draws (s : State) : (preChecks s).draws = s.draws := by
  simp [preChecks]

/-! ### Fetch leaves these fields alone -/

@[simp] theorem handToDecode_x (s : State) : (handToDecode s).x = s.x := by
  unfold handToDecode; split <;> rfl
@[simp] theorem handToDecode_valid (s : State) : (handToDecode s).valid = s.valid := by
  unfold handToDecode; split <;> rfl
@[simp] theorem handToDecode_flag (s : State) : (handToDecode s).flag = s.flag := by
  unfold handToDecode; split <;> rfl
@[simp] theorem handToDecode_halted (s : State) : (handToDecode s).halted = s.halted := by
  unfold handToDecode; split <;> rfl
@[simp] theorem handToDecode_clock (s : State) : (handToDecode s).clock = s.clock := by
  unfold handToDecode; split <;> rfl
@[simp] theorem handToDecode_done (s : State) : (handToDecode s).done = s.done := by
  unfold handToDecode; split <;> rfl
@[simp] theorem handToDecode_pend (s : State) : (handToDecode s).pend = s.pend := by
  unfold handToDecode; split <;> rfl
@[simp] theorem handToDecode_lu (s : State) : (handToDecode s).lu = s.lu := by
  unfold handToDecode; split <;> rfl
@[simp] theorem handToDecode_prevRd (s : State) : (handToDecode s).prevRd = s.prevRd := by
  unfold handToDecode; split <;> rfl
@[simp] theorem handToDecode_e (s : State) : (handToDecode s).e = s.e := by
  unfold handToDecode; split <;> rfl
@[simp] theorem handToDecode_m (s : State) : (handToDecode s).m = s.m := by
  unfold handToDecode; split <;> rfl
@[simp] theorem handToDecode_w (s : State) : (handToDecode s).w = s.w := by
  unfold handToDecode; split <;> rfl
@[simp] theorem handToDecode_dm (s : State) : (handToDecode s).dm = s.dm := by
  unfold handToDecode; split <;> rfl
@[simp] theorem handToDecode_store (s : State) : (handToDecode s).store = s.store := by
  unfold handToDecode; split <;> rfl
@[simp] theorem handToDecode_cfg (s : State) : (handToDecode s).cfg = s.cfg := by
  unfold handToDecode; split <;> rfl
@[simp] theorem handToDecode_stop (s : State) : (handToDecode s).stop = s.stop := by
  unfold handToDecode; split <;> rfl
@[simp] theorem handToDecode_draws (s : State) : (handToDecode s).draws = s.draws := by
  unfold handToDecode; split <;> rfl
@[simp] theorem handToDecode_turn (s : State) : (handToDecode s).turn = s.turn := by
  unfold handToDecode; split <;> rfl
@[simp] theorem handToDecode_pc (s : State) : (handToDecode s).pc = s.pc := by
  unfold handToDecode; split <;> rfl
@[simp] theorem fetchRecord_x (r : Resident) (s : State) : (fetchRecord r s).x = s.x := by
  simp [fetchRecord]
@[simp] theorem fetchRecord_valid (r : Resident) (s : State) : (fetchRecord r s).valid = s.valid := by
  simp [fetchRecord]
@[simp] theorem fetchRecord_flag (r : Resident) (s : State) : (fetchRecord r s).flag = s.flag := by
  simp [fetchRecord]
@[simp] theorem fetchRecord_halted (r : Resident) (s : State) : (fetchRecord r s).halted = s.halted := by
  simp [fetchRecord]
@[simp] theorem fetchRecord_clock (r : Resident) (s : State) : (fetchRecord r s).clock = s.clock := by
  simp [fetchRecord]
@[simp] theorem fetchRecord_done (r : Resident) (s : State) : (fetchRecord r s).done = s.done := by
  simp [fetchRecord]
@[simp] theorem fetchRecord_pend (r : Resident) (s : State) : (fetchRecord r s).pend = s.pend := by
  simp [fetchRecord]
@[simp] theorem fetchRecord_lu (r : Resident) (s : State) : (fetchRecord r s).lu = s.lu := by
  simp [fetchRecord]
@[simp] theorem fetchRecord_prevRd (r : Resident) (s : State) : (fetchRecord r s).prevRd = s.prevRd := by
  simp [fetchRecord]
@[simp] theorem fetchRecord_e (r : Resident) (s : State) : (fetchRecord r s).e = s.e := by
  simp [fetchRecord]
@[simp] theorem fetchRecord_m (r : Resident) (s : State) : (fetchRecord r s).m = s.m := by
  simp [fetchRecord]
@[simp] theorem fetchRecord_w (r : Resident) (s : State) : (fetchRecord r s).w = s.w := by
  simp [fetchRecord]
@[simp] theorem fetchRecord_dm (r : Resident) (s : State) : (fetchRecord r s).dm = s.dm := by
  simp [fetchRecord]
@[simp] theorem fetchRecord_store (r : Resident) (s : State) : (fetchRecord r s).store = s.store := by
  simp [fetchRecord]
@[simp] theorem fetchRecord_cfg (r : Resident) (s : State) : (fetchRecord r s).cfg = s.cfg := by
  simp [fetchRecord]
@[simp] theorem fetchRecord_stop (r : Resident) (s : State) : (fetchRecord r s).stop = s.stop := by
  simp [fetchRecord]
@[simp] theorem fetchRecord_draws (r : Resident) (s : State) : (fetchRecord r s).draws = s.draws := by
  simp [fetchRecord]
@[simp] theorem fetchStage_x (s : State) : (fetchStage s).x = s.x := by
  simp only [fetchStage]; repeat' split
  all_goals simp [fetchCatchUp]
@[simp] theorem fetchStage_valid (s : State) : (fetchStage s).valid = s.valid := by
  simp only [fetchStage]; repeat' split
  all_goals simp [fetchCatchUp]
@[simp] theorem fetchStage_flag (s : State) : (fetchStage s).flag = s.flag := by
  simp only [fetchStage]; repeat' split
  all_goals simp [fetchCatchUp]
@[simp] theorem fetchStage_halted (s : State) : (fetchStage s).halted = s.halted := by
  simp only [fetchStage]; repeat' split
  all_goals simp [fetchCatchUp]
@[simp] theorem fetchStage_clock (s : State) : (fetchStage s).clock = s.clock := by
  simp only [fetchStage]; repeat' split
  all_goals simp [fetchCatchUp]
@[simp] theorem fetchStage_done (s : State) : (fetchStage s).done = s.done := by
  simp only [fetchStage]; repeat' split
  all_goals simp [fetchCatchUp]
@[simp] theorem fetchStage_pend (s : State) : (fetchStage s).pend = s.pend := by
  simp only [fetchStage]; repeat' split
  all_goals simp [fetchCatchUp]
@[simp] theorem fetchStage_lu (s : State) : (fetchStage s).lu = s.lu := by
  simp only [fetchStage]; repeat' split
  all_goals simp [fetchCatchUp]
@[simp] theorem fetchStage_prevRd (s : State) : (fetchStage s).prevRd = s.prevRd := by
  simp only [fetchStage]; repeat' split
  all_goals simp [fetchCatchUp]
@[simp] theorem fetchStage_e (s : State) : (fetchStage s).e = s.e := by
  simp only [fetchStage]; repeat' split
  all_goals simp [fetchCatchUp]
@[simp] theorem fetchStage_m (s : State) : (fetchStage s).m = s.m := by
  simp only [fetchStage]; repeat' split
  all_goals simp [fetchCatchUp]
@[simp] theorem fetchStage_w (s : State) : (fetchStage s).w = s.w := by
  simp only [fetchStage]; repeat' split
  all_goals simp [fetchCatchUp]
@[simp] theorem fetchStage_dm (s : State) : (fetchStage s).dm = s.dm := by
  simp only [fetchStage]; repeat' split
  all_goals simp [fetchCatchUp]
@[simp] theorem fetchStage_store (s : State) : (fetchStage s).store = s.store := by
  simp only [fetchStage]; repeat' split
  all_goals simp [fetchCatchUp]
@[simp] theorem fetchStage_cfg (s : State) : (fetchStage s).cfg = s.cfg := by
  simp only [fetchStage]; repeat' split
  all_goals simp [fetchCatchUp]
@[simp] theorem fetchStage_stop (s : State) : (fetchStage s).stop = s.stop := by
  simp only [fetchStage]; repeat' split
  all_goals simp [fetchCatchUp]
@[simp] theorem fetchStage_draws (s : State) : (fetchStage s).draws = s.draws := by
  simp only [fetchStage]; repeat' split
  all_goals simp [fetchCatchUp]

/-! ### A pending action leaves these fields alone -/

@[simp] theorem State.flushYounger_x (s : State) : s.flushYounger.x = s.x := by
  simp [State.flushYounger]
@[simp] theorem State.flushYounger_pc (s : State) : s.flushYounger.pc = s.pc := by
  simp [State.flushYounger]
@[simp] theorem State.flushYounger_flag (s : State) : s.flushYounger.flag = s.flag := by
  simp [State.flushYounger]
@[simp] theorem State.flushYounger_halted (s : State) : s.flushYounger.halted = s.halted := by
  simp [State.flushYounger]
@[simp] theorem State.flushYounger_clock (s : State) : s.flushYounger.clock = s.clock := by
  simp [State.flushYounger]
@[simp] theorem State.flushYounger_done (s : State) : s.flushYounger.done = s.done := by
  simp [State.flushYounger]
@[simp] theorem State.flushYounger_pend (s : State) : s.flushYounger.pend = s.pend := by
  simp [State.flushYounger]
@[simp] theorem State.flushYounger_lu (s : State) : s.flushYounger.lu = s.lu := by
  simp [State.flushYounger]
@[simp] theorem State.flushYounger_prevRd (s : State) : s.flushYounger.prevRd = s.prevRd := by
  simp [State.flushYounger]
@[simp] theorem State.flushYounger_m (s : State) : s.flushYounger.m = s.m := by
  simp [State.flushYounger]
@[simp] theorem State.flushYounger_w (s : State) : s.flushYounger.w = s.w := by
  simp [State.flushYounger]
@[simp] theorem State.flushYounger_dm (s : State) : s.flushYounger.dm = s.dm := by
  simp [State.flushYounger]
@[simp] theorem State.flushYounger_store (s : State) : s.flushYounger.store = s.store := by
  simp [State.flushYounger]
@[simp] theorem State.flushYounger_cfg (s : State) : s.flushYounger.cfg = s.cfg := by
  simp [State.flushYounger]
@[simp] theorem State.flushYounger_stop (s : State) : s.flushYounger.stop = s.stop := by
  simp [State.flushYounger]
@[simp] theorem State.flushYounger_turn (s : State) : s.flushYounger.turn = s.turn := by
  simp [State.flushYounger]
@[simp] theorem State.flushYounger_draws (s : State) : s.flushYounger.draws = s.draws := by
  simp [State.flushYounger]
@[simp] theorem State.flushYounger_f (s : State) : s.flushYounger.f = Latch.nop := rfl
@[simp] theorem State.flushYounger_d (s : State) : s.flushYounger.d = Latch.nop := rfl
@[simp] theorem State.flushYounger_e (s : State) : s.flushYounger.e = Latch.nop := rfl
@[simp] theorem State.flushYounger_valid (s : State) : s.flushYounger.valid = (s.setValidOpt s.e.dest true).valid := rfl

@[simp] theorem applyPending_x (s : State) : (applyPending s).x = s.x := by
  unfold applyPending applyFlush applyJump; split <;> simp
@[simp] theorem applyPending_flag (s : State) : (applyPending s).flag = s.flag := by
  unfold applyPending applyFlush applyJump; split <;> simp
@[simp] theorem applyPending_halted (s : State) : (applyPending s).halted = s.halted := by
  unfold applyPending applyFlush applyJump; split <;> simp
@[simp] theorem applyPending_clock (s : State) : (applyPending s).clock = s.clock := by
  unfold applyPending applyFlush applyJump; split <;> simp
@[simp] theorem applyPending_prevRd (s : State) : (applyPending s).prevRd = s.prevRd := by
  unfold applyPending applyFlush applyJump; split <;> simp
@[simp] theorem applyPending_m (s : State) : (applyPending s).m = s.m := by
  unfold applyPending applyFlush applyJump; split <;> simp
@[simp] theorem applyPending_w (s : State) : (applyPending s).w = s.w := by
  unfold applyPending applyFlush applyJump; split <;> simp
@[simp] theorem applyPending_dm (s : State) : (applyPending s).dm = s.dm := by
  unfold applyPending applyFlush applyJump; split <;> simp
@[simp] theorem applyPending_store (s : State) : (applyPending s).store = s.store := by
  unfold applyPending applyFlush applyJump; split <;> simp
@[simp] theorem applyPending_cfg (s : State) : (applyPending s).cfg = s.cfg := by
  unfold applyPending applyFlush applyJump; split <;> simp
@[simp] theorem applyPending_stop (s : State) : (applyPending s).stop = s.stop := by
  unfold applyPending applyFlush applyJump; split <;> simp
@[simp] theorem applyPending_turn (s : State) : (applyPending s).turn = s.turn := by
  unfold applyPending applyFlush applyJump; split <;> simp
@[simp] theorem applyPending_draws (s : State) : (applyPending s).draws = s.draws := by
  unfold applyPending applyFlush applyJump; split <;> simp

/-! ### The branch test leaves everything but the draw counter alone -/

@[simp] theorem afterTest_x (s : State) : (afterTest s).x = s.x := by
  unfold afterTest; split <;> simp
@[simp] theorem afterTest_valid (s : State) : (afterTest s).valid = s.valid := by
  unfold afterTest; split <;> simp
@[simp] theorem afterTest_pc (s : State) : (afterTest s).pc = s.pc := by
  unfold afterTest; split <;> simp
@[simp] theorem afterTest_flag (s : State) : (afterTest s).flag = s.flag := by
  unfold afterTest; split <;> simp
@[simp] theorem afterTest_halted (s : State) : (afterTest s).halted = s.halted := by
  unfold afterTest; split <;> simp
@[simp] theorem afterTest_clock (s : State) : (afterTest s).clock = s.clock := by
  unfold afterTest; split <;> simp
@[simp] theorem afterTest_done (s : State) : (afterTest s).done = s.done := by
  unfold afterTest; split <;> simp
@[simp] theorem afterTest_pend (s : State) : (afterTest s).pend = s.pend := by
  unfold afterTest; split <;> simp
@[simp] theorem afterTest_lu (s : State) : (afterTest s).lu = s.lu := by
  unfold afterTest; split <;> simp
@[simp] theorem afterTest_prevRd (s : State) : (afterTest s).prevRd = s.prevRd := by
  unfold afterTest; split <;> simp
@[simp] theorem afterTest_f (s : State) : (afterTest s).f = s.f := by
  unfold afterTest; split <;> simp
@[simp] theorem afterTest_d (s : State) : (afterTest s).d = s.d := by
  unfold afterTest; split <;> simp
@[simp] theorem afterTest_e (s : State) : (afterTest s).e = s.e := by
  unfold afterTest; split <;> simp
@[simp] theorem afterTest_m (s : State) : (afterTest s).m = s.m := by
  unfold afterTest; split <;> simp
@[simp] theorem afterTest_w (s : State) : (afterTest s).w = s.w := by
  unfold afterTest; split <;> simp
@[simp] theorem afterTest_dm (s : State) : (afterTest s).dm = s.dm := by
  unfold afterTest; split <;> simp
@[simp] theorem afterTest_store (s : State) : (afterTest s).store = s.store := by
  unfold afterTest; split <;> simp
@[simp] theorem afterTest_cfg (s : State) : (afterTest s).cfg = s.cfg := by
  unfold afterTest; split <;> simp
@[simp] theorem afterTest_stop (s : State) : (afterTest s).stop = s.stop := by
  unfold afterTest; split <;> simp
@[simp] theorem afterTest_turn (s : State) : (afterTest s).turn = s.turn := by
  unfold afterTest; split <;> simp

/-! ### Re-validation leaves everything but the validity bits alone -/

@[simp] theorem revalidate_x (rd : Reg) (s : State) : (revalidate rd s).x = s.x := by
  unfold revalidate; split <;> simp
@[simp] theorem revalidate_pc (rd : Reg) (s : State) : (revalidate rd s).pc = s.pc := by
  unfold revalidate; split <;> simp
@[simp] theorem revalidate_flag (rd : Reg) (s : State) : (revalidate rd s).flag = s.flag := by
  unfold revalidate; split <;> simp
@[simp] theorem revalidate_halted (rd : Reg) (s : State) : (revalidate rd s).halted = s.halted := by
  unfold revalidate; split <;> simp
@[simp] theorem revalidate_clock (rd : Reg) (s : State) : (revalidate rd s).clock = s.clock := by
  unfold revalidate; split <;> simp
@[simp] theorem revalidate_done (rd : Reg) (s : State) : (revalidate rd s).done = s.done := by
  unfold revalidate; split <;> simp
@[simp] theorem revalidate_pend (rd : Reg) (s : State) : (revalidate rd s).pend = s.pend := by
  unfold revalidate; split <;> simp
@[simp] theorem revalidate_lu (rd : Reg) (s : State) : (revalidate rd s).lu = s.lu := by
  unfold revalidate; split <;> simp
@[simp] theorem revalidate_prevRd (rd : Reg) (s : State) : (revalidate rd s).prevRd = s.prevRd := by
  unfold revalidate; split <;> simp
@[simp] theorem revalidate_f (rd : Reg) (s : State) : (revalidate rd s).f = s.f := by
  unfold revalidate; split <;> simp
@[simp] theorem revalidate_d (rd : Reg) (s : State) : (revalidate rd s).d = s.d := by
  unfold revalidate; split <;> simp
@[simp] theorem revalidate_e (rd : Reg) (s : State) : (revalidate rd s).e = s.e := by
  unfold revalidate; split <;> simp
@[simp] theorem revalidate_m (rd : Reg) (s : State) : (revalidate rd s).m = s.m := by
  unfold revalidate; split <;> simp
@[simp] theorem revalidate_w (rd : Reg) (s : State) : (revalidate rd s).w = s.w := by
  unfold revalidate; split <;> simp
@[simp] theorem revalidate_dm (rd : Reg) (s : State) : (revalidate rd s).dm = s.dm := by
  unfold revalidate; split <;> simp
@[simp] theorem revalidate_store (rd : Reg) (s : State) : (revalidate rd s).store = s.store := by
  unfold revalidate; split <;> simp
@[simp] theorem revalidate_cfg (rd : Reg) (s : State) : (revalidate rd s).cfg = s.cfg := by
  unfold revalidate; split <;> simp
@[simp] theorem revalidate_stop (rd : Reg) (s : State) : (revalidate rd s).stop = s.stop := by
  unfold revalidate; split <;> simp
@[simp] theorem revalidate_turn (rd : Reg) (s : State) : (revalidate rd s).turn = s.turn := by
  unfold revalidate; split <;> simp
@[simp] theorem revalidate_draws (rd : Reg) (s : State) : (revalidate rd s).draws = s.draws := by
  unfold revalidate; split <;> simp

end Sys2Proof.Machine
end

