-- ==== Sys2Proof/Laws/Decode.lean ====
section
/-! SUPPORT. What Decode's main logic can do, said once: it prepares the latch D (operand values, branch marks) and then
either stalls or dispatches. -/

namespace Sys2Proof.Machine

theorem invalidSources_nil {i : Instr} {s : State} (h : ∀ p ∈ Instr.sources i, s.isValid p.2 = true) :
    invalidSources i s = [] := by
  simp only [invalidSources, List.filter_eq_nil_iff]
  intro p hp; simp [h p hp]

theorem invalidSources_ne_nil {i : Instr} {s : State} {slot : Slot} {r : Reg} (hm : (slot, r) ∈ Instr.sources i)
    (hv : s.isValid r = false) : invalidSources i s ≠ [] := by
  intro h
  have := (List.filter_eq_nil_iff.1 h) _ hm
  simp [hv] at this

/-- Reading the operands changes D.v1 and D.v2 and nothing else. -/
theorem readOperands_eq (i : Instr) (s : State) :
    readOperands i s =
      { s with d := { s.d with v1 := (readOperands i s).d.v1, v2 := (readOperands i s).d.v2 } } := by
  cases i <;> simp [readOperands, Instr.sources, State.setOperand]

theorem readOperands_v1 {i : Instr} {r : Reg} (s : State) (h : (Slot.rs1, r) ∈ Instr.sources i) :
    (readOperands i s).d.v1 = s.reg r := by
  cases i <;> simp_all [readOperands, Instr.sources, State.setOperand]

theorem readOperands_v2 {i : Instr} {r : Reg} (s : State) (h : (Slot.rs2, r) ∈ Instr.sources i) :
    (readOperands i s).d.v2 = s.reg r := by
  cases i <;> simp_all [readOperands, Instr.sources, State.setOperand]

/-- `q` is `s` with only the fields of D changed that Decode computes on the way to a dispatch. -/
def Prepared (s q : State) : Prop :=
  q = { s with d := { s.d with
    v1 := q.d.v1
    v2 := q.d.v2
    resolve := q.d.resolve
    snap := q.d.snap
    released := q.d.released } }

theorem prepared_refl (s : State) : Prepared s s := rfl

theorem Prepared.trans {s q p : State} (h : Prepared s q) (k : Prepared q p) : Prepared s p := by
  unfold Prepared at h k ⊢; rw [k]; rw [h]

theorem prepared_readOperands (i : Instr) (s : State) : Prepared s (readOperands i s) := by
  unfold Prepared; rw [readOperands_eq]

theorem prepared_captureFlag (s : State) : Prepared s s.captureFlag := rfl

theorem prepared_setOperand (s : State) (slot : Slot) (v : Word) : Prepared s (s.setOperand slot v) := by
  cases slot <;> rfl

/-- How Decode's main logic ends: in one of the four stalls, or with a dispatch into a free E. -/
theorem dispatchOrDefer_cases (i : Instr) (s : State) :
    (s.e.stalled = true ∧ dispatchOrDefer i s = s.stall .downstream) ∨
    (s.e.stalled = false ∧ dispatchOrDefer i s = dispatch i s) := by
  unfold dispatchOrDefer; by_cases h : s.e.stalled = true <;> simp [h]

theorem forwardAll_cases (i : Instr) (l : List (Slot × Reg)) (s : State) :
    ∃ q, Prepared s q ∧ q.d.resolve = s.d.resolve ∧ q.d.snap = s.d.snap ∧ q.d.released = s.d.released ∧
      ((∃ why, forwardAll i l s = q.stall why ∧ (why = .operand ∨ why = .downstream)) ∨
       (s.e.isLoad = true ∧ forwardAll i l s = { q.stall .loadUse with lu := true }) ∨
       (s.e.stalled = false ∧ forwardAll i l s = dispatch i q)) := by
  induction l generalizing s with
  | nil =>
    refine ⟨s, prepared_refl s, rfl, rfl, rfl, ?_⟩
    rcases dispatchOrDefer_cases i s with ⟨-, h⟩ | ⟨h1, h2⟩
    · exact .inl ⟨_, h, .inr rfl⟩
    · exact .inr (.inr ⟨h1, h2⟩)
  | cons p rest ih =>
    obtain ⟨slot, r⟩ := p
    simp only [forwardAll]
    split
    · exact ⟨s, prepared_refl s, rfl, rfl, rfl, .inl ⟨_, rfl, .inl rfl⟩⟩
    · rename_i st _
      by_cases hl : st = .execute ∧ s.e.isLoad = true
      · rw [if_pos hl]
        exact ⟨s, prepared_refl s, rfl, rfl, rfl, .inr (.inl ⟨hl.2, rfl⟩)⟩
      · rw [if_neg hl]
        obtain ⟨q, h1, h2, h3, h4, h5⟩ := ih (s.setOperand slot (s.latch st).buf)
        have he : (s.setOperand slot (s.latch st).buf).e = s.e := by cases slot <;> rfl
        rw [he] at h5
        refine ⟨q, (prepared_setOperand s slot _).trans h1, h2.trans ?_, h3.trans ?_, h4.trans ?_, h5⟩ <;>
          cases slot <;> rfl

/-- Everything Decode's main logic can answer. -/
theorem issue_cases (i : Instr) (s : State) :
    ∃ q, Prepared s q ∧
      ((∃ why, issue i s = q.stall why ∧ (why = .operand ∨ why = .downstream)) ∨
       (s.cfg.fwd = false ∧ Instr.isBranch i = true ∧ issue i s = q.waitForFlag) ∨
       (s.e.isLoad = true ∧ s.cfg.fwd = true ∧ issue i s = { q.stall .loadUse with lu := true }) ∨
       (s.e.stalled = false ∧ issue i s = dispatch i q ∧
         (s.cfg.fwd = false → Instr.isBranch i = true →
           q.d.resolve = true ∧ q.d.snap = s.flag ∧ q.d.released = false ∧ s.d.released = true) ∧
         (s.d.released = false → q.d.released = false))) := by
  unfold issue
  simp only [readOperands_cfg]
  by_cases h1 : (!(invalidSources i s).isEmpty && !s.cfg.fwd) = true
  · rw [if_pos h1]
    exact ⟨s, prepared_refl s, .inl ⟨_, rfl, .inl rfl⟩⟩
  · rw [if_neg h1]
    have hr : (readOperands i s).d.released = s.d.released := by rw [readOperands_eq]
    by_cases h2 : (!s.cfg.fwd && Instr.isBranch i) = true
    · rw [if_pos h2]
      simp only [Bool.and_eq_true, Bool.not_eq_true'] at h2
      by_cases h3 : (readOperands i s).d.released = true
      · rw [if_pos h3]
        have hn : invalidSources i s = [] := by
          simpa [h2.1] using h1
        rw [hn, forwardAll]
        have hp : Prepared s (readOperands i s).captureFlag :=
          (prepared_readOperands i s).trans (prepared_captureFlag _)
        have he : (readOperands i s).captureFlag.e = s.e := by simp [State.captureFlag]
        rcases dispatchOrDefer_cases i (readOperands i s).captureFlag with ⟨-, h⟩ | ⟨h4, h5⟩
        · exact ⟨_, hp, .inl ⟨_, h, .inr rfl⟩⟩
        · refine ⟨_, hp, .inr (.inr (.inr ⟨he ▸ h4, h5, fun _ _ => ⟨rfl, ?_, rfl, hr ▸ h3⟩, fun _ => rfl⟩))⟩
          simp [State.captureFlag]
      · rw [if_neg h3]
        exact ⟨_, prepared_readOperands i s, .inr (.inl ⟨h2.1, h2.2, rfl⟩)⟩
    · rw [if_neg h2]
      have he : (readOperands i s).e = s.e := by simp
      by_cases hf : s.cfg.fwd = true
      · obtain ⟨q, k1, -, -, k4, k5⟩ := forwardAll_cases i (invalidSources i s) (readOperands i s)
        rw [he] at k5
        refine ⟨q, (prepared_readOperands i s).trans k1, ?_⟩
        rcases k5 with h | ⟨h, h'⟩ | ⟨h, h'⟩
        · exact .inl h
        · exact .inr (.inr (.inl ⟨h, hf, h'⟩))
        · exact .inr (.inr (.inr ⟨h, h', fun a _ => by simp [a] at hf, fun a => k4.trans (hr.trans a)⟩))
      · have hn : invalidSources i s = [] := by simpa [hf] using h1
        rw [hn, forwardAll]
        refine ⟨_, prepared_readOperands i s, ?_⟩
        rcases dispatchOrDefer_cases i (readOperands i s) with ⟨-, h⟩ | ⟨h4, h5⟩
        · exact .inl ⟨_, h, .inr rfl⟩
        · exact .inr (.inr (.inr ⟨he ▸ h4, h5, fun a b => by simp [a, b] at h2, fun a => hr.trans a⟩))

/-- A wait release is used up in the turn that made it: only a non-forwarding branch can carry one, and its turn clears
it. -/
theorem issue_released {i : Instr} {s : State}
    (h : s.d.released = true → s.cfg.fwd = false ∧ Instr.isBranch i = true) : (issue i s).d.released = false := by
  have hn : Instr.isBranch i = true → invalidSources i s = [] := by
    intro hb; cases i <;> simp_all [Instr.isBranch, invalidSources, Instr.sources]
  have hr : (readOperands i s).d.released = s.d.released := by rw [readOperands_eq]
  have hd : ∀ u : State, (dispatchOrDefer i u).d.released = u.d.released := by
    intro u; rcases dispatchOrDefer_cases i u with ⟨-, h⟩ | ⟨-, h⟩ <;> rw [h] <;> simp [State.stall]
  by_cases hs : s.d.released = true
  · obtain ⟨h1, h2⟩ := h hs
    simp [issue, hn h2, h1, h2, hs, forwardAll, hd, State.captureFlag]
  · simp only [Bool.not_eq_true] at hs
    unfold issue
    simp only [readOperands_cfg, hr, hs]
    split
    · simpa [State.stall] using hs
    · split
      · simp [State.waitForFlag, State.stall, hs]
      · obtain ⟨q, -, -, -, h4, h5⟩ := forwardAll_cases i (invalidSources i s) (readOperands i s)
        rcases h5 with ⟨w, h5, -⟩ | ⟨-, h5⟩ | ⟨-, h5⟩ <;> rw [h5] <;> simp [State.stall, h4, hs]

/-- Decode's main logic changes no validity bit but the destination's. -/
theorem issue_isValid {i : Instr} {r : Reg} (s : State) (h : Instr.dest i ≠ some r) :
    (issue i s).isValid r = s.isValid r := by
  obtain ⟨q, hq, hc⟩ := issue_cases i s
  have qv : q.valid = s.valid := by unfold Prepared at hq; rw [hq]
  rcases hc with ⟨w, hc, -⟩ | ⟨-, -, hc⟩ | ⟨-, -, hc⟩ | ⟨-, hc, -, -⟩ <;> rw [hc]
  · exact State.isValid_congr qv r
  · exact State.isValid_congr qv r
  · exact State.isValid_congr qv r
  · have : (dispatch i q).isValid r = (q.setValidOpt (Instr.dest i) false).isValid r := rfl
    rw [this, State.isValid_setValidOpt, if_neg h]
    exact State.isValid_congr qv r

/-- Only a flag producer changes prev_rd. -/
theorem issue_prevRd {i : Instr} (s : State) (h : Instr.flagDest i = none) : (issue i s).prevRd = s.prevRd := by
  obtain ⟨q, hq, hc⟩ := issue_cases i s
  have qv : q.prevRd = s.prevRd := by unfold Prepared at hq; rw [hq]
  rcases hc with ⟨w, hc, -⟩ | ⟨-, -, hc⟩ | ⟨-, -, hc⟩ | ⟨-, hc, -, -⟩ <;> rw [hc]
  · exact qv
  · exact qv
  · exact qv
  · rw [← qv]
    cases i <;> simp_all [dispatch, Instr.flagDest, State.setValidOpt, Instr.dest, State.setValid]

/-- What the pre-checks can do to D, and that they touch nothing else: they leave it, or release it; only the release of a
non-forwarding branch marks it. -/
theorem preChecks_cases (s : State) :
    ∃ d, preChecks s = {s with d := d} ∧ d.ins = s.d.ins ∧ d.pc = s.d.pc ∧ d.busy = s.d.busy ∧
      (d = s.d ∨ (s.d.stalled = true ∧ d.stalled = false ∧ d.reason = none ∧
        (d.released = s.d.released ∨ (d.released = true ∧ s.cfg.fwd = false ∧ s.d.isBranch = true)))) := by
  unfold preChecks
  by_cases c1 : (s.d.stalled && !s.d.sources.isEmpty && s.d.sources.all (fun p => s.isValid p.2)) = true
  · have : preCheck1 s = s.release := by unfold preCheck1; rw [if_pos c1]
    rw [this]; simp at c1; simp [preCheck2, preCheck3, preCheck4, State.release, c1]
  have q1 : preCheck1 s = s := by unfold preCheck1; rw [if_neg c1]
  rw [q1]
  by_cases c2 : (s.d.stalled && decide (s.d.reason = some .downstream) && !s.e.stalled) = true
  · have : preCheck2 s = s.release := by unfold preCheck2; rw [if_pos c2]
    rw [this]; simp at c2; simp [preCheck3, preCheck4, State.release, c2]
  have q2 : preCheck2 s = s := by unfold preCheck2; rw [if_neg c2]
  rw [q2]
  by_cases c3 : (s.d.stalled && !s.cfg.fwd && s.d.isBranch && decide (s.d.reason = some .branchWait) &&
      waitOver s) = true
  · have : preCheck3 s = { s.release with d := { s.release.d with released := true } } := by
      unfold preCheck3; rw [if_pos c3]
    rw [this]; simp at c3; simp [preCheck4, State.release, c3]
  have q3 : preCheck3 s = s := by unfold preCheck3; rw [if_neg c3]
  rw [q3]
  by_cases c4 : (s.d.stalled && decide (s.d.reason = some .loadUse) && !s.lu) = true
  · have : preCheck4 s = s.release := by unfold preCheck4; rw [if_pos c4]
    rw [this]; simp at c4; simp [State.release, c4]
  have q4 : preCheck4 s = s := by unfold preCheck4; rw [if_neg c4]
  rw [q4]; exact ⟨s.d, rfl, rfl, rfl, rfl, .inl rfl⟩

end Sys2Proof.Machine
end

