-- ==== Sys2Proof/Laws/Encoding.lean ====
section
/-! SUPPORT. A packed word and its fields as numbers, and the fields of a packed word read back. -/

namespace Sys2Proof

theorem toNat_append_eq {m n : Nat} (x : BitVec m) (y : BitVec n) :
    (x ++ y).toNat = x.toNat * 2 ^ n + y.toNat := by
  rw [BitVec.toNat_append, ← Nat.shiftLeft_add_eq_or_of_lt y.isLt, Nat.shiftLeft_eq]

theorem pack_toNat (a b c d : BitVec 4) (m : Word) :
    (pack a b c d m).toNat =
      a.toNat * 2 ^ 60 + b.toNat * 2 ^ 56 + c.toNat * 2 ^ 52 + d.toNat * 2 ^ 48 + m.toNat := by
  simp only [pack, toNat_append_eq, show (0 : BitVec 16).toNat = 0 from rfl]
  omega

/-- The fields of a word as numbers (30_encoding.md R75). -/
theorem opcField_toNat (w : Packed) : (opcField w).toNat = w.toNat / 2 ^ 60 := by
  have := w.isLt
  simp only [opcField, BitVec.extractLsb'_toNat, Nat.shiftRight_eq_div_pow]
  omega

theorem rdField_val (w : Packed) : (rdField w).val = w.toNat / 2 ^ 56 % 16 := by
  simp [rdField, Nat.shiftRight_eq_div_pow]

theorem rs1Field_val (w : Packed) : (rs1Field w).val = w.toNat / 2 ^ 52 % 16 := by
  simp [rs1Field, Nat.shiftRight_eq_div_pow]

theorem rs2Field_val (w : Packed) : (rs2Field w).val = w.toNat / 2 ^ 48 % 16 := by
  simp [rs2Field, Nat.shiftRight_eq_div_pow]

theorem immField_toNat (w : Packed) : (immField w).toNat = w.toNat % 2 ^ 32 := by
  simp [immField, BitVec.extractLsb'_toNat]

theorem opcField_pack (a b c d : BitVec 4) (m : Word) : opcField (pack a b c d m) = a := by
  apply BitVec.eq_of_toNat_eq
  have := b.isLt; have := c.isLt; have := d.isLt; have := m.isLt
  rw [opcField_toNat, pack_toNat]; omega

theorem rdField_pack (a : BitVec 4) (rd : Reg) (c d : BitVec 4) (m : Word) :
    rdField (pack a (regBits rd) c d m) = rd := by
  apply Fin.ext
  have := rd.isLt; have := c.isLt; have := d.isLt; have := m.isLt
  have hr : (regBits rd).toNat = rd.val := rfl
  rw [rdField_val, pack_toNat, hr]; omega

theorem rs1Field_pack (a b : BitVec 4) (rs1 : Reg) (d : BitVec 4) (m : Word) :
    rs1Field (pack a b (regBits rs1) d m) = rs1 := by
  apply Fin.ext
  have := b.isLt; have := rs1.isLt; have := d.isLt; have := m.isLt
  have hr : (regBits rs1).toNat = rs1.val := rfl
  rw [rs1Field_val, pack_toNat, hr]; omega

theorem rs2Field_pack (a b c : BitVec 4) (rs2 : Reg) (m : Word) :
    rs2Field (pack a b c (regBits rs2) m) = rs2 := by
  apply Fin.ext
  have := b.isLt; have := c.isLt; have := rs2.isLt; have := m.isLt
  have hr : (regBits rs2).toNat = rs2.val := rfl
  rw [rs2Field_val, pack_toNat, hr]; omega

theorem immField_pack (a b c d : BitVec 4) (m : Word) : immField (pack a b c d m) = m := by
  apply BitVec.eq_of_toNat_eq
  have := m.isLt
  rw [immField_toNat, pack_toNat]; omega

end Sys2Proof
end

