-- ==== Sys2Proof/Laws/PerInstr.lean ====
section
/-! SUPPORT. Per-instruction laws, one lemma for each constructor: the roles of an instruction's fields. -/

namespace Sys2Proof.Laws.OperandRoles

open Sys2Proof.Machine

/-- The source slots an opcode uses, rs1 before rs2 (30_encoding.md R73). -/
def slots (o : Opcode) : List Slot :=
  (if o.usesRs1 then [Slot.rs1] else []) ++ (if o.usesRs2 then [Slot.rs2] else [])

/-- The hazard logic's `sources` and `dest` name exactly the register fields that the opcode's row of R72 uses, and with
the same registers. -/
def Statement (i : Instr) : Prop :=
  (Machine.Instr.dest i).map (fun r => r.val) = i.toRecord.rd ∧
  (Machine.Instr.dest i).isSome = i.toRecord.op.usesRd ∧
  (Machine.Instr.sources i).map Prod.fst = slots i.toRecord.op ∧
  ∀ p ∈ Machine.Instr.sources i,
    some p.2.val = (match p.1 with
      | .rs1 => i.toRecord.rs1
      | .rs2 => i.toRecord.rs2)

theorem add (rd rs1 rs2 : Reg) : Statement (.add rd rs1 rs2) :=
  ⟨rfl, rfl, rfl, by simp [Machine.Instr.sources, Instr.toRecord]⟩

theorem sub (rd rs1 rs2 : Reg) : Statement (.sub rd rs1 rs2) :=
  ⟨rfl, rfl, rfl, by simp [Machine.Instr.sources, Instr.toRecord]⟩

theorem mul (rd rs1 rs2 : Reg) : Statement (.mul rd rs1 rs2) :=
  ⟨rfl, rfl, rfl, by simp [Machine.Instr.sources, Instr.toRecord]⟩

theorem and (rd rs1 rs2 : Reg) : Statement (.and rd rs1 rs2) :=
  ⟨rfl, rfl, rfl, by simp [Machine.Instr.sources, Instr.toRecord]⟩

theorem or (rd rs1 rs2 : Reg) : Statement (.or rd rs1 rs2) :=
  ⟨rfl, rfl, rfl, by simp [Machine.Instr.sources, Instr.toRecord]⟩

theorem xor (rd rs1 rs2 : Reg) : Statement (.xor rd rs1 rs2) :=
  ⟨rfl, rfl, rfl, by simp [Machine.Instr.sources, Instr.toRecord]⟩

theorem movc (rd : Reg) (imm : Word) : Statement (.movc rd imm) :=
  ⟨rfl, rfl, rfl, by simp [Machine.Instr.sources]⟩

theorem load (rd rs1 : Reg) (imm : Word) : Statement (.load rd rs1 imm) :=
  ⟨rfl, rfl, rfl, by simp [Machine.Instr.sources, Instr.toRecord]⟩

theorem store (rs1 rs2 : Reg) (imm : Word) : Statement (.store rs1 rs2 imm) :=
  ⟨rfl, rfl, rfl, by simp [Machine.Instr.sources, Instr.toRecord]⟩

theorem bz (imm : Word) : Statement (.bz imm) := ⟨rfl, rfl, rfl, by simp [Machine.Instr.sources]⟩

theorem bnz (imm : Word) : Statement (.bnz imm) := ⟨rfl, rfl, rfl, by simp [Machine.Instr.sources]⟩

theorem jump (rs1 : Reg) (imm : Word) : Statement (.jump rs1 imm) :=
  ⟨rfl, rfl, rfl, by simp [Machine.Instr.sources, Instr.toRecord]⟩

theorem halt : Statement .halt := ⟨rfl, rfl, rfl, by simp [Machine.Instr.sources]⟩

theorem nop : Statement .nop := ⟨rfl, rfl, rfl, by simp [Machine.Instr.sources]⟩

theorem empty : Statement .empty := ⟨rfl, rfl, rfl, by simp [Machine.Instr.sources]⟩

end Sys2Proof.Laws.OperandRoles
end

