-- ==== Sys2Proof/Laws/Stages.lean ====
section
/-! SUPPORT. What exec does at each turn, and what each stage and a step can do, said once: later proofs cite these
inversions and do not unfold the stages. -/

namespace Sys2Proof.Machine

/-! ### exec, turn by turn -/

theorem exec_atFetch (i : Instr) {s : State} (h : s.turn = .fetch) : exec i s = .next s := by
  cases i <;>
    simp [exec, execAdd, execSub, execMul, execAnd, execOr, execXor, execMovc, execLoad, execStore, execBz, execBnz,
      execJump, execHalt, execNop, execEmpty, h]

theorem exec_atDecode (i : Instr) {s : State} (h : s.turn = .decode) : exec i s = .next (issue i s) := by
  cases i <;>
    simp [exec, execAdd, execSub, execMul, execAnd, execOr, execXor, execMovc, execLoad, execStore, execBz, execBnz,
      execJump, execHalt, execNop, execEmpty, h]

/-- What Writeback does with an instruction, by what it writes. -/
def retire (i : Instr) (s : State) : State :=
  match Instr.flagDest i with
  | some rd => retireArith rd s
  | none =>
    match Instr.dest i with
    | some rd => retireResult rd s
    | none => if i = .nop ∨ i = .empty then retireBubble s else retirePlain s

theorem exec_atWriteback (i : Instr) {s : State} (h : s.turn = .writeback) : exec i s = .next (retire i s) := by
  cases i <;>
    simp [exec, execAdd, execSub, execMul, execAnd, execOr, execXor, execMovc, execLoad, execStore, execBz, execBnz,
      execJump, execHalt, execNop, execEmpty, h, retire, Instr.flagDest, Instr.dest]

/-- At the Memory turn only LOAD and STORE act. -/
theorem exec_atMemory (i : Instr) {s : State} (h : s.turn = .memory) :
    (∃ rd rs1 imm, i = .load rd rs1 imm ∧ exec i s = loadAccess s) ∨
    (∃ rs1 rs2 imm, i = .store rs1 rs2 imm ∧ exec i s = storeAccess s) ∨
    ((∀ rd rs1 imm, i ≠ .load rd rs1 imm) ∧ (∀ rs1 rs2 imm, i ≠ .store rs1 rs2 imm) ∧ exec i s = .next s) := by
  cases i <;>
    simp [exec, execAdd, execSub, execMul, execAnd, execOr, execXor, execMovc, execLoad, execStore, execBz, execBnz,
      execJump, execHalt, execNop, execEmpty, h]

theorem loadAccess_eq (s : State) :
    loadAccess s = match dmIndex s.cfg s.m.addr with
      | some k => .next (s.setLoaded (s.word k))
      | none => .fault (.dataAddressFault s.m.addr s) := rfl

theorem storeAccess_eq (s : State) :
    storeAccess s = match dmIndex s.cfg s.m.addr with
      | some k => .next (s.setWord k s.m.v1)
      | none => .fault (.dataAddressFault s.m.addr s) := rfl

/-- What Execute's opcode rule leaves, for every instruction: it always answers a next state. -/
def run (i : Instr) (s : State) : State :=
  match i with
  | .add _ _ _ => s.setResult (s.e.v1 + s.e.v2)
  | .sub _ _ _ => s.setResult (s.e.v1 - s.e.v2)
  | .mul _ _ _ => (s.setResult (s.e.v1 * s.e.v2)).holdExecute
  | .and _ _ _ => s.setResult (s.e.v1 &&& s.e.v2)
  | .or _ _ _ => s.setResult (s.e.v1 ||| s.e.v2)
  | .xor _ _ _ => s.setResult (s.e.v1 ^^^ s.e.v2)
  | .movc _ imm => s.setResult imm
  | .load _ _ imm => loadExecute imm s
  | .store rs1 _ imm => storeExecute rs1 imm s
  | .bz imm => resolveBranch isZero imm s
  | .bnz imm => resolveBranch isNonzero imm s
  | .jump _ imm => s.pendJump (s.e.v1 + imm)
  | .halt => haltExecute s
  | .nop => s
  | .empty => s

theorem exec_atExecute (i : Instr) {s : State} (h : s.turn = .execute) : exec i s = .next (run i s) := by
  cases i <;>
    simp [exec, execAdd, execSub, execMul, execAnd, execOr, execXor, execMovc, execLoad, execStore, execBz, execBnz,
      execJump, execHalt, execNop, execEmpty, h, run]

/-! ### The stages -/

/-- Writeback never faults. -/
theorem writebackStage_eq (s : State) :
    writebackStage s = .next (if s.w.busy then s.atTurn .writeback else
      match s.w.ins with
      | .instr i => retire i (s.atTurn .writeback)
      | .fetchFault => retirePlain (s.atTurn .writeback)) := by
  simp only [writebackStage, State.atTurn_w]
  by_cases hb : s.w.busy = true
  · simp only [hb, if_true]
  · simp only [hb]
    cases s.w.ins with
    | instr i => exact exec_atWriteback i rfl
    | fetchFault => rfl

/-- What the Memory stage can answer with a next state. -/
theorem memoryStage_cases {s t : State} (h : memoryStage s = .next t) :
    (s.m.busy = true ∧ t = s.atTurn .memory) ∨
    (s.m.busy = false ∧ ∃ u, t = ((applyPending u).dropStale s.e.stalled).copyToWriteback ∧
      ((s.e.stalled = true ∧ u = s.atTurn .memory) ∨
       (s.e.stalled = false ∧ ∃ rd rs1 imm k, s.m.ins = .instr (.load rd rs1 imm) ∧ dmIndex s.cfg s.m.addr = some k ∧
          u = (s.atTurn .memory).setLoaded (s.word k)) ∨
       (s.e.stalled = false ∧ ∃ rs1 rs2 imm k, s.m.ins = .instr (.store rs1 rs2 imm) ∧
          dmIndex s.cfg s.m.addr = some k ∧ u = (s.atTurn .memory).setWord k s.m.v1) ∨
       (s.e.stalled = false ∧ (∀ rd rs1 imm, s.m.ins ≠ .instr (.load rd rs1 imm)) ∧
          (∀ rs1 rs2 imm, s.m.ins ≠ .instr (.store rs1 rs2 imm)) ∧ u = s.atTurn .memory))) := by
  simp only [memoryStage, State.atTurn_m, State.atTurn_e] at h
  by_cases hb : s.m.busy = true
  · simp only [hb, if_true] at h
    exact .inl ⟨hb, by cases h; rfl⟩
  · simp only [Bool.not_eq_true] at hb
    simp only [hb, Bool.false_eq_true, if_false] at h
    refine .inr ⟨hb, ?_⟩
    obtain ⟨u, hu, ht⟩ := andThen_eq_next.1 h
    refine ⟨u, by cases ht; rfl, ?_⟩
    by_cases hs : s.e.stalled = true
    · simp only [hs, if_true] at hu
      exact .inl ⟨hs, by cases hu; rfl⟩
    · simp only [Bool.not_eq_true] at hs
      simp only [hs, Bool.false_eq_true, if_false, memoryAccess, State.atTurn_m] at hu
      refine .inr ?_
      cases hi : s.m.ins with
      | fetchFault =>
        simp only [hi] at hu
        exact .inr (.inr ⟨hs, by simp, by simp, by cases hu; rfl⟩)
      | instr i =>
        simp only [hi] at hu
        rcases exec_atMemory i (s := s.atTurn .memory) rfl with ⟨a, b, c, rfl, he⟩ | ⟨a, b, c, rfl, he⟩ | ⟨h1, h2, he⟩
        · rw [he, loadAccess_eq] at hu
          cases hk : dmIndex s.cfg s.m.addr with
          | none => simp [hk] at hu
          | some k =>
            simp only [State.atTurn_cfg, State.atTurn_m, hk] at hu
            exact .inl ⟨hs, a, b, c, k, rfl, rfl, by cases hu; rfl⟩
        · rw [he, storeAccess_eq] at hu
          cases hk : dmIndex s.cfg s.m.addr with
          | none => simp [hk] at hu
          | some k =>
            simp only [State.atTurn_cfg, State.atTurn_m, hk] at hu
            exact .inr (.inl ⟨hs, a, b, c, k, rfl, rfl, by cases hu; rfl⟩)
        · rw [he] at hu
          exact .inr (.inr ⟨hs, by simpa using h1, by simpa using h2, by cases hu; rfl⟩)

/-- The Memory stage stops only with DataAddressFault, for the LOAD or STORE in M. -/
theorem memoryStage_fault {s : State} {r : Fault} (h : memoryStage s = .fault r) :
    s.m.busy = false ∧ s.e.stalled = false ∧ dmIndex s.cfg s.m.addr = none ∧
      r = .dataAddressFault s.m.addr (s.atTurn .memory) ∧
      ((∃ rd rs1 imm, s.m.ins = .instr (.load rd rs1 imm)) ∨ (∃ rs1 rs2 imm, s.m.ins = .instr (.store rs1 rs2 imm))) := by
  simp only [memoryStage, State.atTurn_m, State.atTurn_e] at h
  by_cases hb : s.m.busy = true
  · simp [hb] at h
  · by_cases hs : s.e.stalled = true
    · simp [hb, hs] at h
    · simp only [Bool.not_eq_true] at hb hs
      simp only [hb, hs, Bool.false_eq_true, if_false, andThen_eq_fault, memoryAccess, State.atTurn_m, reduceCtorEq,
        and_false, exists_false, or_false] at h
      cases hi : s.m.ins with
      | fetchFault => simp [hi] at h
      | instr i =>
        simp only [hi] at h
        rcases exec_atMemory i (s := s.atTurn .memory) rfl with ⟨a, b, c, rfl, he⟩ | ⟨a, b, c, rfl, he⟩ | ⟨-, -, he⟩
        · rw [he, loadAccess_eq] at h
          cases hk : dmIndex s.cfg s.m.addr with
          | some k => simp [hk] at h
          | none =>
            simp only [State.atTurn_cfg, State.atTurn_m, hk] at h
            exact ⟨hb, hs, rfl, by cases h; rfl, .inl ⟨a, b, c, rfl⟩⟩
        · rw [he, storeAccess_eq] at h
          cases hk : dmIndex s.cfg s.m.addr with
          | some k => simp [hk] at h
          | none =>
            simp only [State.atTurn_cfg, State.atTurn_m, hk] at h
            exact ⟨hb, hs, rfl, by cases h; rfl, .inr ⟨a, b, c, rfl⟩⟩
        · simp [he] at h

theorem memoryStage_not_refused (s : State) (r : Refusal) : memoryStage s ≠ .refused r := by
  simp only [memoryStage, State.atTurn_m, State.atTurn_e]
  by_cases hb : s.m.busy = true
  · simp [hb]
  · by_cases hs : s.e.stalled = true
    · simp [hb, hs]
    · cases hi : s.m.ins with
      | fetchFault => simp [hb, hs, memoryAccess, hi]
      | instr i =>
        rcases exec_atMemory i (s := s.atTurn .memory) rfl with ⟨a, b, c, rfl, he⟩ | ⟨a, b, c, rfl, he⟩ | ⟨-, -, he⟩
        · cases hk : dmIndex s.cfg s.m.addr <;> simp [hb, hs, memoryAccess, hi, he, loadAccess_eq, hk]
        · cases hk : dmIndex s.cfg s.m.addr <;> simp [hb, hs, memoryAccess, hi, he, storeAccess_eq, hk]
        · simp [hb, hs, memoryAccess, hi, he]

/-- What Execute answers: it stops only on a FETCHFAULT record. -/
theorem executeStage_eq (s : State) :
    executeStage s =
      if s.e.busy then .next s.atExecute
      else if s.e.stalled then .next (finishMul s.atExecute)
      else if upstreamBlocked s then .next (clearExecute s.atExecute)
      else match s.e.ins with
        | .instr i => .next (copyUnlessHeld (run i s.atExecute))
        | .fetchFault => .fault (.fetchAddressFault s.e.pc s) := by
  have hu : upstreamBlocked s.atExecute = upstreamBlocked s := rfl
  simp only [executeStage, State.atExecute_e, hu]
  cases hi : s.e.ins with
  | fetchFault => rfl
  | instr i => simp only [exec_atExecute i (State.atExecute_turn s), andThen_next]

/-- What Decode answers: always a next state. -/
theorem decodeStage_eq (s : State) :
    decodeStage s = .next (
      let t := preChecks (s.atTurn .decode)
      if t.d.busy || t.d.stalled then t
      else match t.d.ins with
        | .instr i => issue i t
        | .fetchFault => issueFetchFault t) := by
  simp only [decodeStage]
  by_cases hb : ((preChecks (s.atTurn .decode)).d.busy || (preChecks (s.atTurn .decode)).d.stalled) = true
  · simp only [hb, if_true]
  · simp only [hb]
    cases (preChecks (s.atTurn .decode)).d.ins with
    | instr i => exact exec_atDecode i (by simp)
    | fetchFault => rfl

/-! ### The cycle and the step -/

theorem cycle_eq_next {s t : State} :
    cycle s = .next t ↔ ∃ a b c d, writebackStage s = .next a ∧ memoryStage a = .next b ∧ executeStage b = .next c ∧
      decodeStage c = .next d ∧ t = (fetchStage d).endCycle := by
  simp only [cycle, andThen_eq_next, Host.Outcome.next.injEq]
  constructor
  · rintro ⟨a, ha, b, hb, c, hc, d, hd, rfl⟩; exact ⟨a, b, c, d, ha, hb, hc, hd, rfl⟩
  · rintro ⟨a, b, c, d, ha, hb, hc, hd, rfl⟩; exact ⟨a, ha, b, hb, c, hc, d, hd, rfl⟩

/-- What a step can answer with a next state. -/
theorem step_cases {s t : State} (h : step s = .next t) :
    (s.stop ≠ none ∧ t = s) ∨
    (s.stop = none ∧ budgetSpent s = true ∧ t = { s with stop := some .budget }) ∨
    (s.stop = none ∧ budgetSpent s = false ∧ ∃ u, cycle s = .next u ∧ t = u.checkComplete) := by
  simp only [step, advance] at h
  cases hs : s.stop with
  | some r =>
    simp only [hs] at h
    exact .inl ⟨by simp, by cases h; rfl⟩
  | none =>
    simp only [hs] at h
    cases hb : budgetSpent s with
    | true =>
      simp only [hb, if_true] at h
      exact .inr (.inl ⟨rfl, rfl, by cases h; rfl⟩)
    | false =>
      simp only [hb, Bool.false_eq_true, if_false, andThen_eq_next] at h
      obtain ⟨u, hu, ht⟩ := h
      exact .inr (.inr ⟨rfl, rfl, u, hu, by cases ht; rfl⟩)

end Sys2Proof.Machine
end

