-- ==== Sys2Proof/Laws/Retire.lean ====
section
/-! SUPPORT. What a retirement does to each piece of state, for every instruction at once. -/

namespace Sys2Proof.Machine

theorem revalidate_eq (rd : Reg) (s : State) :
    revalidate rd s = { s with
      valid := if s.e.dest = some rd then s.valid else s.valid.set rd.val true rd.isLt } := by
  unfold revalidate Latch.produces
  by_cases h : s.e.dest = some rd <;> simp [h, State.setValid]

/-- A retirement changes registers, validity bits, FLAG and done, and nothing else. -/
theorem retire_eq (i : Instr) (s : State) :
    retire i s = { s with
      x := (retire i s).x
      valid := (retire i s).valid
      flag := (retire i s).flag
      done := (retire i s).done } := by
  cases i <;>
    simp [retire, Instr.flagDest, Instr.dest, retireArith, retireResult, retirePlain, retireBubble, revalidate_eq,
      State.addDone, State.setFlag, State.setReg]

/-- Only the destination register changes, and it gets the buffer. -/
theorem retire_reg (i : Instr) (s : State) (r : Reg) :
    (retire i s).reg r = if Instr.dest i = some r then s.w.buf else s.reg r := by
  have key : ∀ (rd : Reg) (u : State), u.x = (s.setReg rd s.w.buf).x →
      u.reg r = if some rd = some r then s.w.buf else s.reg r := by
    intro rd u hu
    rw [State.reg_congr hu]
    by_cases h : r = rd
    · subst h; simp
    · rw [State.reg_setReg_ne _ _ h, if_neg (by simpa using fun h' => h h'.symm)]
  cases i <;> simp only [retire, Instr.flagDest, Instr.dest]
  all_goals first
    | exact key _ _ (by simp [retireArith, retireResult, State.setFlag, State.addDone])
    | simp [retirePlain, retireBubble]
  all_goals rfl

/-- Only the destination is re-validated, and only where E holds no younger claim on it. -/
theorem retire_isValid (i : Instr) (s : State) (r : Reg) :
    (retire i s).isValid r = if Instr.dest i = some r ∧ s.e.dest ≠ some r then true else s.isValid r := by
  have key : ∀ (rd : Reg) (u : State),
      u.valid = (if s.e.dest = some rd then s else s.setValid rd true).valid →
      u.isValid r = if some rd = some r ∧ s.e.dest ≠ some r then true else s.isValid r := by
    intro rd u hu
    rw [State.isValid_congr hu]
    by_cases hh : s.e.dest = some rd
    · rw [if_pos hh, if_neg]
      rintro ⟨h1, h2⟩
      exact h2 (h1 ▸ hh)
    · rw [if_neg hh, State.isValid_setValid]
      by_cases h : r = rd
      · subst h; simp [hh]
      · have : some rd ≠ some r := fun h' => h (by simpa using h'.symm)
        rw [if_neg h, if_neg (fun h' => this h'.1)]
  cases i <;> simp only [retire, Instr.flagDest, Instr.dest]
  all_goals first
    | exact key _ _ (by
        simp only [retireArith, retireResult, State.addDone, revalidate_eq, State.setFlag, State.setReg]
        split <;> simp_all [State.setValid])
    | simp [retirePlain, retireBubble]
  all_goals rfl

end Sys2Proof.Machine
end

