-- ==== Sys2Proof/Tests/Slice0.lean ====
section
/-! SUPPORT. The model's own tests: the well-formedness smoke, a word of every constructor written out from 30_encoding.md
R75 and R76, small steps of each family with results from the spec's rules and examples, and for every statement with
hypotheses a witness that meets them. -/

namespace Sys2Proof.Tests

open Sys2Proof.Machine

/-! ## Helpers -/

/-- A machine that is filled and calm: BASE 4000, ten words of data memory, every latch holding EMPTY. -/
def calm (fwd : Bool) (store : List Packed) : State :=
  { State.resetWith { fwd := fwd, base := 4000, dmemWords := 10, cycleLimit := none } store [] with
    d := Latch.empty, e := Latch.empty, m := Latch.empty, w := Latch.empty }

/-- A latch that holds an instruction fetched from 4000. -/
def holding (i : Instr) (v1 v2 buf addr : Word) : Latch :=
  { Latch.empty with ins := .instr i, pc := some 4000, v1 := v1, v2 := v2, buf := buf, addr := addr }

/-- The answer is a next state with the property. -/
def next (o : Result) (p : State → Bool) : Bool :=
  match o with
  | .next t => p t
  | .fault _ => false
  | .refused _ => false

/-- The answer is DataAddressFault with this address. -/
def dataFault (o : Result) (a : Word) : Bool :=
  match o with
  | .fault (.dataAddressFault b _) => decide (a = b)
  | .fault (.fetchAddressFault _ _) => false
  | .next _ => false
  | .refused _ => false

/-- The answer is FetchAddressFault with this address. -/
def fetchFault (o : Result) (a : Word) : Bool :=
  match o with
  | .fault (.fetchAddressFault b _) => decide (b = some a)
  | .fault (.dataAddressFault _ _) => false
  | .next _ => false
  | .refused _ => false

/-- The answer is a refusal of a reserved code at this index. -/
def refusedAt (o : Result) (k : Nat) : Bool :=
  match o with
  | .refused (.reservedOpcode j) => decide (j = k)
  | .refused _ => false
  | .next _ => false
  | .fault _ => false

/-- The decoder reads this instruction. -/
def reads (w : Packed) (i : Instr) : Bool :=
  match decode w with
  | .ok j => decide (j = i)
  | .error _ => false

/-! ## Well-formed records (R74): one ill-formed record for each check -/

theorem test_wf_accepts : (Record.wf ⟨.add, some 15, some 0, some 7, 0⟩) = true := by decide
theorem test_wf_accepts_imm : (Record.wf ⟨.movc, some 1, none, none, -(2 ^ 31)⟩) = true := by decide
theorem test_wf_refuses_invalid_opcode : (Record.wf ⟨.invalid, none, none, none, 0⟩) = false := by decide
theorem test_wf_refuses_missing_rd : (Record.wf ⟨.movc, none, none, none, 5⟩) = false := by decide
theorem test_wf_refuses_extra_rd : (Record.wf ⟨.store, some 1, some 1, some 0, 0⟩) = false := by decide
theorem test_wf_refuses_rd_16 : (Record.wf ⟨.movc, some 16, none, none, 5⟩) = false := by decide
theorem test_wf_refuses_missing_rs1 : (Record.wf ⟨.jump, none, none, none, 0⟩) = false := by decide
theorem test_wf_refuses_extra_rs1 : (Record.wf ⟨.bz, none, some 1, none, 8⟩) = false := by decide
theorem test_wf_refuses_rs1_16 : (Record.wf ⟨.load, some 1, some 16, none, 0⟩) = false := by decide
theorem test_wf_refuses_missing_rs2 : (Record.wf ⟨.sub, some 1, some 1, none, 0⟩) = false := by decide
theorem test_wf_refuses_extra_rs2 : (Record.wf ⟨.load, some 1, some 1, some 1, 0⟩) = false := by decide
theorem test_wf_refuses_rs2_16 : (Record.wf ⟨.or, some 1, some 1, some 16, 0⟩) = false := by decide
theorem test_wf_refuses_large_imm : (Record.wf ⟨.bz, none, none, none, 2 ^ 31⟩) = false := by decide
theorem test_wf_refuses_small_imm : (Record.wf ⟨.bz, none, none, none, -(2 ^ 31) - 1⟩) = false := by decide
theorem test_wf_refuses_unused_imm : (Record.wf ⟨.halt, none, none, none, 4⟩) = false := by decide

/-! ## Decoding: opc, rd, rs1, rs2 as hexadecimal digits, then bits 47:32, then imm (R75, codes of R76) -/

theorem test_decode_add : reads 0x0312000000000000 (.add 3 1 2) = true := by decide
theorem test_decode_sub : reads 0x1F0E000000000000 (.sub 15 0 14) = true := by decide
theorem test_decode_mul : reads 0x2345000000000000 (.mul 3 4 5) = true := by decide
theorem test_decode_and : reads 0x3712000000000000 (.and 7 1 2) = true := by decide
theorem test_decode_or : reads 0x4801000000000000 (.or 8 0 1) = true := by decide
theorem test_decode_xor : reads 0x5612000000000000 (.xor 6 1 2) = true := by decide
theorem test_decode_movc : reads 0x6100000000000005 (.movc 1 5) = true := by decide
theorem test_decode_load : reads 0x72000000FFFFFFFF (.load 2 0 (-1)) = true := by decide
theorem test_decode_store : reads 0x8010000000000000 (.store 1 0 0) = true := by decide
theorem test_decode_bz : reads 0x9000000000000008 (.bz 8) = true := by decide
theorem test_decode_bnz : reads 0xA0000000FFFFFFF8 (.bnz (-8)) = true := by decide
theorem test_decode_jump : reads 0xB010000000000000 (.jump 1 0) = true := by decide
theorem test_decode_halt : reads 0xC000000000000000 .halt = true := by decide
theorem test_decode_nop : reads 0xD000000000000000 .nop = true := by decide
theorem test_decode_empty : reads 0xE000000000000000 .empty = true := by decide
/-- R75: the unused fields and bits 47:32 are ignored. -/
theorem test_decode_ignores_unused : reads 0xC123FFFF00000007 .halt = true := by decide
/-- R78: code 15 is the one reserved code. -/
theorem test_decode_refuses_code_15 : decodeTableWord 64 0xF000000000000000 = none := by decide
theorem test_table_word_short : decodeTableWord 8 0xD000000000000005 = some (.add 0 0 0) := by decide
theorem test_load_refuses_code_15 :
    refusedAt (load Config.standard [0x6100000000000005, 0xF000000000000000] []) 1 = true := by decide

/-! ## Small steps -/

/-- R228: 0xFFFFFFFF + 1 = 0. -/
theorem test_add_wraps :
    next (exec (.add 3 1 2) { calm false [] with turn := .execute, e := holding (.add 3 1 2) 0xFFFFFFFF 1 7 0 })
      (fun t => t.e.buf == 0) = true := by decide
/-- R221: 0 - 1 = 0xFFFFFFFF, rs1 the minuend. -/
theorem test_sub_order :
    next (exec (.sub 3 1 2) { calm false [] with turn := .execute, e := holding (.sub 3 1 2) 0 1 7 0 })
      (fun t => t.e.buf == 0xFFFFFFFF) = true := by decide
/-- R222: 0x80000000 * 0xFFFFFFFF = 0x80000000, and Execute is held. -/
theorem test_mul_low_half :
    next (exec (.mul 3 1 2) { calm false [] with turn := .execute, e := holding (.mul 3 1 2) 0x80000000 0xFFFFFFFF 7 0 })
      (fun t => t.e.buf == 0x80000000 && t.e.stalled) = true := by decide
/-- The examples of R223, R224 and R225. -/
theorem test_logic :
    (next (exec (.and 7 1 2) { calm false [] with turn := .execute, e := holding .nop 0xFFFFFFFF 0x7FFFFFFF 7 0 })
      (fun t => t.e.buf == 0x7FFFFFFF) &&
    next (exec (.or 8 0 1) { calm false [] with turn := .execute, e := holding .nop 0 0xFFFFFFFF 7 0 })
      (fun t => t.e.buf == 0xFFFFFFFF) &&
    next (exec (.xor 6 1 2) { calm false [] with turn := .execute, e := holding .nop 0xFFFFFFFF 0x7FFFFFFF 7 0 })
      (fun t => t.e.buf == 0x80000000)) = true := by decide
/-- R226: `MOVC R1,#-1` gives 0xFFFFFFFF. -/
theorem test_movc_negative :
    next (exec (.movc 1 (-1)) { calm false [] with turn := .execute, e := holding (.movc 1 (-1)) 0 0 7 0 })
      (fun t => t.e.buf == 0xFFFFFFFF) = true := by decide
/-- R208, R225: a retiring XOR sets FLAG to NONE, a retiring SUB to its result. -/
theorem test_flag_at_retirement :
    (next (exec (.xor 6 1 1) { calm false [] with flag := some 3, w := holding (.xor 6 1 1) 0 0 0 0 })
      (fun t => t.flag == none && t.done == 1) &&
    next (exec (.sub 6 1 1) { calm false [] with flag := some 3, w := holding (.sub 6 1 1) 0 0 0 0 })
      (fun t => t.flag == some 0 && t.done == 1)) = true := by decide
/-- R240, R53: the last word can be loaded, the one after it faults. -/
theorem test_load_bounds :
    (next (exec (.load 2 0 0) { calm false [] with turn := .memory, dm := [(9, 20)], m := holding .nop 0 0 0 9 })
      (fun t => t.m.buf == 20) &&
    dataFault (exec (.load 2 0 0) { calm false [] with turn := .memory, m := holding .nop 0 0 0 10 }) 10 &&
    dataFault (exec (.load 2 0 0) { calm false [] with turn := .memory, m := holding .nop 0 0 0 (-1) }) (-1)) = true := by
  decide
/-- R242: the data is rs1's value re-resolved from M, the base is rs2. -/
theorem test_store_reresolves :
    next (exec (.store 1 2 3) { calm false [] with
      turn := .execute, e := holding (.store 1 2 3) 77 4 0 0, m := holding (.load 1 0 0) 0 0 20 0 })
      (fun t => t.e.v1 == 20 && t.e.addr == 7) = true := by decide
/-- R52: storing 0 takes the word off the list, so equal memories are equal lists. -/
theorem test_store_zero_is_canonical :
    next (exec (.store 1 2 0) { calm false [] with
      turn := .memory, dm := [(3, 5), (4, 6)], m := holding (.store 1 2 0) 0 0 0 3 })
      (fun t => t.dm == [(4, 6)]) = true := by decide
/-- Vector B1 (95_test_vectors.md): the BZ at 4008 with imm 8 sends Fetch to 4012 and raises done by 1. -/
theorem test_bz_taken :
    next (exec (.bz 8) { calm false [] with
      turn := .execute
      pc := 4016
      e := { holding (.bz 8) 0 0 0 0 with pc := some 4008, resolve := true, snap := some 0 } })
      (fun t => t.pc == 4012 && t.done == 1 && t.pend == .flush) = true := by decide
/-- R252: `BNZ #-8` taken lowers done by 3; with FWD = 1 it tests the producer in M. -/
theorem test_bnz_backward :
    next (exec (.bnz (-8)) { calm true [] with
      turn := .execute, done := 5, e := { holding (.bnz (-8)) 0 0 0 0 with pc := some 4020 }
      m := holding (.sub 1 1 3) 0 0 2 0 })
      (fun t => t.pc == 4008 && t.done == 2 && t.pend == .flush) = true := by decide
/-- R254, R202: the target is absolute; done becomes the target's index minus 1. -/
theorem test_jump :
    (next (exec (.jump 1 8) { calm false [] with turn := .execute, e := holding (.jump 1 8) 4004 0 0 0 })
      (fun t => t.pend == .jump 4012 && t.pc == 4000) &&
    next (memoryStage { calm false [] with pend := .jump 4012, m := holding (.jump 1 8) 4004 0 0 0 })
      (fun t => t.pc == 4012 && t.done == 2 && t.pend == .none)) = true := by decide
/-- R202 with R101, N = 1: a jump to BASE + 4N + 4 makes done N and stops the run before the JUMP retires, and one to the
next aligned target does not (log 16). -/
theorem test_jump_past_end :
    (next (step { calm false [0xB010000000000000] with pend := .jump 4008, m := holding (.jump 1 0) 4008 0 0 0 })
      (fun t => t.done == 1 && t.stop == some .complete && t.w.ins == .instr (.jump 1 0)) &&
    next (step { calm false [0xB010000000000000] with pend := .jump 4012, m := holding (.jump 1 0) 4012 0 0 0 })
      (fun t => t.done == 2 && t.stop == none)) = true := by decide
/-- R202 with R101, N = 1: after a jump to BASE + 4N + 1 the JUMP's retirement makes done N and stops the run (log 16). -/
theorem test_jump_misaligned_past_end :
    next (steps 2 { calm false [0xB010000000000000] with pend := .jump 4005, m := holding (.jump 1 0) 4005 0 0 0 })
      (fun t => t.done == 1 && t.stop == some .complete && t.e.ins == .fetchFault) = true := by decide
/-- R209 with R101, `SUB; BZ #5`, N = 2: the BZ's retirement makes done N and stops the run while the FETCHFAULT record
read at its misaligned target still stands before Execute (log 17). -/
theorem test_branch_misaligned_past_end :
    next (step { calm false [0x1211000000000000, 0x9000000000000005] with
      done := 1, w := holding (.bz 5) 0 0 0 0, d := { Latch.empty with ins := .fetchFault, pc := some 4009 } })
      (fun t => t.done == 2 && t.stop == some .complete && t.e.ins == .fetchFault) = true := by decide
/-- R182 with R186: a branch that stays in E behind a waiting one is run again, with pc = p + 12, and copied to M again
(log 18). -/
theorem test_branch_runs_again :
    next (step { calm false [0xA000000000000008, 0xA000000000000008] with
      pc := 4012
      f := { holding .nop 0 0 0 0 with stalled := true, reason := some .deferral }
      d := { holding (.bnz 8) 0 0 0 0 with stalled := true, reason := some .branchWait, wait := some 1 }
      e := { holding (.bnz 8) 0 0 0 0 with resolve := true, snap := some 0 }
      m := holding (.bnz 8) 0 0 0 0 })
      (fun t => t.m.ins == .instr (.bnz 8) && t.w.ins == .instr (.bnz 8) && t.pc == 4012 && t.done == 0) = true := by
  decide
/-- R250 with R110: taken in such a second run, the branch at 4000 with imm 8 leaves pc at 4004, and Fetch, catching up, does
not read there (log 18). -/
theorem test_branch_second_run_taken :
    next (step { calm false [0xA000000000000008, 0xA000000000000008] with
      pc := 4012
      f := { holding .nop 0 0 0 0 with stalled := true, reason := some .deferral }
      d := { holding (.bnz 8) 0 0 0 0 with stalled := true, reason := some .branchWait, wait := some 1 }
      e := { holding (.bnz 8) 0 0 0 0 with resolve := true, snap := some 4 }
      m := holding (.bnz 8) 0 0 0 0 })
      (fun t => t.pc == 4004 && t.pend == .flush && t.d.ins == .instr .nop) = true := by decide
/-- R23: pc + 4 is taken modulo 2^32, and R51 makes the read below BASE a FETCHFAULT record (log 19). -/
theorem test_pc_wraps :
    (fetchStage { calm false [] with pc := 0xFFFFFFFC }).pc = 0 ∧
      (fetchStage { calm false [] with pc := 0 }).f.ins = .fetchFault := by decide
/-- R256: done becomes N - 2, also where that is negative. -/
theorem test_halt :
    next (exec .halt { calm false [0xC000000000000000] with turn := .execute, e := holding .halt 0 0 0 0 })
      (fun t => t.halted && t.done == -1) = true := by decide
/-- R258, R259: a bubble resets FLAG and is not counted. -/
theorem test_bubbles :
    (next (exec .nop { calm false [] with flag := some 3 }) (fun t => t.flag == none && t.done == 0) &&
    next (exec .empty { calm false [] with flag := some 3 }) (fun t => t.flag == none && t.done == 0)) = true := by decide
/-- One row of each kind of the opcode table runs as the first instruction after reset. -/
theorem test_first_instruction_runs :
    ([0x0, 0x6100000000000005, 0x7000000000000000, 0x8000000000000000, 0xA000000000000000, 0xB000000000000000,
      0xC000000000000000, 0xE000000000000000].all
      (fun w => next (step (State.reset.withFetchWord 64 w)) (fun _ => true))) = true := by decide
/-- ResetLeavesTheseValues: the state it speaks of. -/
theorem test_witness_ResetLeavesTheseValues : State.reset = State.resetWith Config.standard [] [] := rfl
/-- R333: the empty program is complete after its first cycle. -/
theorem test_empty_program_completes :
    next (step State.reset) (fun t => t.stop == some .complete && t.clock == 1) = true := by decide

/-! ## Witnesses: a state and operands that meet the hypotheses of each statement, clause by clause -/

/-- An ADD to R3 in the latch `l`. -/
def addR3 : Latch := holding (.add 3 1 2) 5 10 15 0

/-- A held MUL. -/
def heldMul : Latch := { holding (.mul 3 1 2) 2 3 6 0 with stalled := true }

/-- A D stalled for a reason. -/
def stalledD (i : Instr) (why : StallReason) : Latch := { holding i 0 0 0 0 with stalled := true, reason := some why }

/-- A turn of Decode for `i`, with R1 valid or not. -/
def decoding (fwd : Bool) (i : Instr) (r1 : Bool) : State :=
  ({ calm fwd [] with turn := .decode, d := holding i 0 0 0 0 } : State).setValid 1 r1

theorem test_witness_DecoderReadsFieldsAtTheirBits :
    reads 0x7F3000000000FFFF (.load 15 3 0xFFFF) = true ∧ reads 0x0312000000000000 (.add 3 1 2) = true ∧
      (0x6100000000000005 : Packed).toNat / 2 ^ 60 ≠ 15 ∧ (0xF000000000000000 : Packed).toNat / 2 ^ 60 = 15 := by decide

theorem test_witness_LoaderRefusesReservedCode :
    (([0xD000000000000000, 0xF000000000000000] : List Packed)[1]? = some 0xF000000000000000 ∧
      (0xD000000000000000 : Packed).toNat / 2 ^ 60 ≠ 15) ∧
    ((∀ w ∈ ([0xE000000000000000] : List Packed), w.toNat / 2 ^ 60 ≠ 15) ∧
      100 ≤ ({ Config.standard with dmemWords := 100 } : Config).dmemWords ∧
      (0xFFFFFFFB : Word).toNat + 4 * 1 < 2 ^ 32 ∧ Memory.wf [(99, 1)] = true ∧ Memory.below 100 [(99, 1)] = true) :=
  ⟨by decide, fun w hw => by rw [List.mem_singleton.1 hw]; decide, Nat.le_refl 100, by decide, by decide, by decide⟩

theorem test_witness_EmptyProgramCompletesAtClockOne :
    Config.standard.cycleLimit ≠ some 0 ∧ ({ Config.standard with cycleLimit := some 1 } : Config).cycleLimit ≠ some 0 := by
  decide

theorem test_witness_StepIsTheDriversLoop :
    ({ calm false [] with stop := some .complete } : State).stop = some .complete ∧
    (∃ s : State, s.stop = none ∧ s.cfg.cycleLimit = some 0 ∧ 0 ≤ s.clock) ∧
    (next (cycle { calm false [] with cfg := { Config.standard with cycleLimit := some 1 } }) (fun t => t.clock == 1) &&
      dataFault (cycle { calm false [] with m := holding (.load 1 0 0) 0 0 0 10 }) 10) = true :=
  ⟨by decide, ⟨{ calm false [] with cfg := { Config.standard with cycleLimit := some 0 } }, by decide⟩, by decide⟩

theorem test_witness_CycleRunsTheFiveTurnsInOrder :
    next (cycle (calm true [0x6100000000000005])) (fun t => t.d.ins == .instr (.movc 1 5)) = true := by decide

theorem test_witness_StagesRunTheirResident :
    next (writebackStage { calm false [] with w := addR3 }) (fun t => t.reg 3 == 15) = true ∧
    next (memoryStage { calm false [] with m := holding (.load 1 0 0) 0 0 0 9 }) (fun t => t.w.ins == .instr (.load 1 0 0))
      = true ∧
    next (executeStage { calm false [] with e := addR3, d := stalledD .nop .downstream }) (fun t => t.m.buf == 15)
      = true ∧
    next (executeStage { calm false [] with e := holding (.bz 8) 0 0 0 0, d := stalledD (.add 1 1 1) .operand })
      (fun t => t.m.ins == .instr (.bz 8)) = true ∧
    next (decodeStage { calm false [] with d := addR3 }) (fun t => t.e.ins == .instr (.add 3 1 2)) = true := by decide

/-- A FETCHFAULT record fetched from 3996 (R51). -/
def faultRecord : Latch := { Latch.empty with ins := .fetchFault, pc := some 3996 }

/-- R104, R146, R181, R205: a busy latch at a stage's turn, and a D that no pre-check releases. -/
theorem test_witness_StagesRunTheirResident_held :
    next (writebackStage { calm false [] with w := { Latch.empty with busy := true }, flag := some 3, done := 7 })
      (fun t => t.flag == some 3 && t.done == 7) = true ∧
    next (executeStage { calm false [] with e := { Latch.empty with busy := true }, m := addR3, lu := true })
      (fun t => t.m == addR3 && !t.lu) = true ∧
    next (decodeStage { calm false [] with d := { Latch.empty with busy := true }, e := addR3 }) (fun t => t.e == addR3)
      = true ∧
    next (decodeStage { decoding false (.add 3 1 2) false with d := stalledD (.add 3 1 2) .operand, e := addR3 })
      (fun t => t.d == stalledD (.add 3 1 2) .operand && t.e == addR3) = true := by decide

/-- R51, R158, R159: a FETCHFAULT record in D goes into a free E and waits behind a held one. -/
theorem test_witness_StagesRunTheirResident_fetchFault :
    next (decodeStage { calm false [] with d := faultRecord }) (fun t => t.e.ins == .fetchFault && t.e.pc == some 3996)
      = true ∧
    next (decodeStage { calm false [] with d := faultRecord, e := heldMul })
      (fun t => t.d.reason == some .downstream && t.d.stalled && t.e == heldMul) = true := by decide

/-- The machine that holds a one-instruction program, calm and about to fetch it. -/
def about (fwd : Bool) (i : Instr) : State := calm fwd [encode i]

theorem about_drained (fwd : Bool) (i : Instr) : Drained (about fwd i) where
  running := rfl
  unbounded := rfl
  incomplete := by
    show sint 0 ≠ ((1 : Nat) : Int)
    decide
  noPending := rfl
  notHalted := rfl
  bubbles := fun st => by cases st <;> exact .inl rfl
  flowing := fun st => by cases st <;> rfl
  fetchFree := rfl
  allValid := fun r => by
    show (Vector.replicate 16 true).get r = true
    revert r; decide

/-- The state right after reset is drained too, its latches busy with EMPTY. -/
theorem test_witness_reset_drained : Drained (State.resetWith Config.standard [encode (.add 3 1 2)] []) where
  running := rfl
  unbounded := rfl
  incomplete := by
    show sint 0 ≠ ((1 : Nat) : Int)
    decide
  noPending := rfl
  notHalted := rfl
  bubbles := fun st => by cases st <;> exact .inl rfl
  flowing := fun st => by cases st <;> rfl
  fetchFree := rfl
  allValid := fun r => by
    show (Vector.replicate 16 true).get r = true
    revert r; decide

theorem test_witness_FetchedInstructionReachesExecute :
    (Drained (about true (.bz 8)) ∧ NextIs (about true (.bz 8)) (.bz 8) ∧ (about true (.bz 8)).cfg.fwd = true) ∧
    (Drained (about false (.load 1 2 3)) ∧ NextIs (about false (.load 1 2 3)) (.load 1 2 3) ∧
      Instr.isBranch (.load 1 2 3) = false) :=
  ⟨⟨about_drained _ _, ⟨by decide, _, rfl, rfl⟩, rfl⟩, ⟨about_drained _ _, ⟨by decide, _, rfl, rfl⟩, rfl⟩⟩

theorem test_witness_AluInstructionRunsAlone :
    Drained (about false (.mul 3 1 2)) ∧ LastIs (about false (.mul 3 1 2)) (.mul 3 1 2) ∧
      (about false (.mul 3 1 2)).pc.toNat + 32 < 2 ^ 32 ∧ Instr.dest (.mul 3 1 2) = some 3 ∧
      aluValue (about false (.mul 3 1 2)).reg (.mul 3 1 2) = some 0 :=
  ⟨about_drained _ _, ⟨⟨by decide, _, rfl, rfl⟩, by decide⟩, by decide, rfl, by decide⟩

theorem test_witness_LoadStoreRunsAlone :
    (Drained (about false (.load 1 2 9)) ∧ MemoryLegal (about false (.load 1 2 9)) ∧
      LastIs (about false (.load 1 2 9)) (.load 1 2 9) ∧ 0 ≤ sint ((about false (.load 1 2 9)).reg 2 + 9) ∧
      sint ((about false (.load 1 2 9)).reg 2 + 9) < 10) ∧
    (Drained (about true (.store 1 2 0)) ∧ MemoryLegal (about true (.store 1 2 0)) ∧
      LastIs (about true (.store 1 2 0)) (.store 1 2 0) ∧ 0 ≤ sint ((about true (.store 1 2 0)).reg 2 + 0) ∧
      sint ((about true (.store 1 2 0)).reg 2 + 0) < 10) :=
  ⟨⟨about_drained _ _, ⟨rfl, rfl⟩, ⟨⟨by decide, _, rfl, rfl⟩, by decide⟩, by decide, by decide⟩,
    ⟨about_drained _ _, ⟨rfl, rfl⟩, ⟨⟨by decide, _, rfl, rfl⟩, by decide⟩, by decide, by decide⟩⟩

theorem test_witness_JumpReachesItsTarget :
    Drained (about false (.jump 1 4000)) ∧ NextIs (about false (.jump 1 4000)) (.jump 1 4000) ∧
      isRead (about false (.jump 1 4000)) ((about false (.jump 1 4000)).reg 1 + 4000) = some (.instr (.jump 1 4000)) :=
  ⟨about_drained _ _, ⟨by decide, _, rfl, rfl⟩, by decide⟩

/-- One below BASE, BASE itself, a misaligned address, the last slot's, the first past the end, and a reserved slot. -/
theorem test_witness_StoreReadByAddress :
    isRead (about false .halt) 3999 = some .fetchFault ∧ isRead (about false .halt) 4000 = some (.instr .halt) ∧
    isRead (about false .halt) 4003 = some .fetchFault ∧ isRead (about false .halt) 4004 = some (.instr .empty) ∧
    isRead (calm false [0xF000000000000000]) 4000 = none := by decide

theorem test_witness_FetchNormalPath :
    ((calm false []).f.busy = false ∧ (calm false []).f.stalled = false ∧ (calm false []).d.stalled = false ∧
      isRead (calm false []) (calm false []).pc = some (.instr .empty)) ∧
    (isRead { calm false [] with d := stalledD .nop .downstream } 4000 = some (.instr .empty)) ∧
    isRead (calm false [0xF000000000000000]) (calm false []).pc = none := by decide

/-- F deferring to a D that has been released, and to one that is still stalled. -/
theorem test_witness_FetchCatchUpOrHold :
    (fetchStage { calm false [] with f := { holding .halt 0 0 0 0 with stalled := true, reason := some .deferral } }).d.ins
      = .instr .halt ∧
    (fetchStage { calm false [] with
      f := { holding .halt 0 0 0 0 with stalled := true, reason := some .deferral }
      d := stalledD .nop .downstream }).d.ins = .instr .nop ∧
    (fetchStage { calm false [] with f := { Latch.empty with busy := true } }).pc = 4000 := by decide

/-- Each pre-check alone releases D, and none of them does where the cause still holds. -/
theorem test_witness_PreChecksReleaseExactly :
    (preChecks { calm false [] with d := stalledD (.jump 1 0) .operand }).d.stalled = false ∧
    (preChecks { calm false [] with d := stalledD .nop .downstream }).d.stalled = false ∧
    (preChecks { calm false [] with d := stalledD (.bz 8) .branchWait }).d.released = true ∧
    (preChecks (({ calm true [] with d := stalledD (.jump 1 0) .loadUse } : State).setValid 1 false)).d.stalled = false ∧
    (preChecks (({ calm true [] with d := stalledD (.jump 1 0) .operand } : State).setValid 1 false)).d.stalled = true := by
  decide

theorem test_witness_ClaimOnlyAtDispatch :
    next (decodeStage { calm false [] with d := addR3 }) (fun t => !t.isValid 3 && !t.d.stalled) = true ∧
    next (decodeStage { calm false [] with d := addR3, e := heldMul }) (fun t => t.isValid 3 && t.d.stalled) = true := by
  decide

theorem test_witness_DecodeStallsWithoutDispatch :
    ((decoding false (.add 1 1 2) false).turn = .decode ∧ (decoding false (.add 1 1 2) false).cfg.fwd = false ∧
      (Slot.rs1, (1 : Reg)) ∈ Instr.sources (.add 1 1 2) ∧ (decoding false (.add 1 1 2) false).isValid 1 = false) ∧
    next (exec (.add 1 1 2) { decoding true (.add 1 1 2) true with e := heldMul })
      (fun t => t.d.reason == some .downstream) = true ∧
    (∀ p ∈ Instr.sources (.add 1 1 2), (decoding true (.add 1 1 2) true).isValid p.2 = true) := by decide

theorem test_witness_DispatchReadsClaimsAndCopies :
    (decoding false (.add 1 1 2) true).turn = .decode ∧ (decoding false (.add 1 1 2) true).e.stalled = false ∧
    (decoding false (.add 1 1 2) true).d.stalled = false ∧
    (∀ p ∈ Instr.sources (.add 1 1 2), (decoding false (.add 1 1 2) true).isValid p.2 = true) ∧
    Instr.isBranch (.add 1 1 2) = false ∧ (decoding true (.bz 8) false).cfg.fwd = true := by decide

/-- R1 comes from E, from M, and from W; a STORE's data comes from M although E produces it too. -/
theorem test_witness_ForwardedValueComesFromYoungestProducer :
    next (exec (.add 2 1 3) { decoding true (.add 2 1 3) false with e := holding (.add 1 0 0) 0 0 7 0 })
      (fun t => t.e.v1 == 7 && !t.d.stalled) = true ∧
    next (exec (.add 2 1 3) { decoding true (.add 2 1 3) false with m := holding (.add 1 0 0) 0 0 8 0 })
      (fun t => t.e.v1 == 8 && !t.d.stalled) = true ∧
    next (exec (.add 2 1 3) { decoding true (.add 2 1 3) false with w := holding (.load 1 0 0) 0 0 9 0 })
      (fun t => t.e.v1 == 9 && !t.d.stalled) = true ∧
    next (exec (.store 1 2 0) { decoding true (.store 1 2 0) false with
      e := holding (.load 1 0 0) 0 0 7 0, m := holding (.load 1 0 0) 0 0 8 0 })
      (fun t => t.e.v1 == 8 && !t.d.stalled) = true := by decide

/-- A forwarding Decode turn for `i` with R1 and R3 invalid, R3 produced in M, and `e` in Execute. -/
def forwarding (i : Instr) (e : Latch) : State := ({ decoding true i false with m := addR3, e := e } : State).setValid 3 false

/-- The first invalid source is the LOAD's, and the second one after R3 has been forwarded from M. -/
theorem test_witness_LoadInExecuteCausesLoadUseStall :
    (∃ s : State, s.turn = .decode ∧ s.cfg.fwd = true ∧
      (Instr.sources (.add 2 1 3)).filter (fun p => !s.isValid p.2) = [] ++ (.rs1, 1) :: [(.rs2, 3)] ∧
      (∀ p ∈ ([] : List (Slot × Reg)), Forwards (.add 2 1 3) s p.1 p.2) ∧
      HitsExecute (.add 2 1 3) s .rs1 1 ∧ s.e.isLoad = true) ∧
    ∃ s : State, s.turn = .decode ∧ s.cfg.fwd = true ∧
      (Instr.sources (.add 2 3 1)).filter (fun p => !s.isValid p.2) = [(.rs1, 3)] ++ (.rs2, 1) :: [] ∧
      (∀ p ∈ [(Slot.rs1, (3 : Reg))], Forwards (.add 2 3 1) s p.1 p.2) ∧
      HitsExecute (.add 2 3 1) s .rs2 1 ∧ s.e.isLoad = true :=
  ⟨⟨forwarding (.add 2 1 3) (holding (.load 1 0 0) 0 0 0 0), rfl, rfl, by decide, by simp,
      ⟨by decide, by rintro ⟨-, a, b, c, h, -⟩; cases h⟩, by decide⟩,
    ⟨forwarding (.add 2 3 1) (holding (.load 1 0 0) 0 0 0 0), rfl, rfl, by decide,
      fun p hp => by rw [List.mem_singleton.1 hp]; exact .inr ⟨fun h => absurd h.1 (by decide), .inl (by decide)⟩,
      ⟨by decide, by rintro ⟨-, a, b, c, h, -⟩; cases h⟩, by decide⟩⟩

/-- Both clauses: `ADD R2,R3,R1` with R3 forwarded from M and R1 produced nowhere; a STORE whose first source only E, which
is not searched for it, produces; and the same ADD with its two sources forwarded, from M and E. -/
theorem test_witness_ForwardingStallsOrDispatches :
    (∃ s : State, s.turn = .decode ∧ s.cfg.fwd = true ∧
      (Instr.sources (.add 2 3 1)).filter (fun p => !s.isValid p.2) = [(.rs1, 3)] ++ (.rs2, 1) :: [] ∧
      (∀ p ∈ [(Slot.rs1, (3 : Reg))], Forwards (.add 2 3 1) s p.1 p.2) ∧
      ¬HitsExecute (.add 2 3 1) s .rs2 1 ∧ ¬HitsLater s 1) ∧
    (∃ s : State, s.turn = .decode ∧ s.cfg.fwd = true ∧ s.e.dest = some 1 ∧
      (Instr.sources (.store 1 2 0)).filter (fun p => !s.isValid p.2) = [] ++ (.rs1, 1) :: [] ∧
      ¬HitsExecute (.store 1 2 0) s .rs1 1 ∧ ¬HitsLater s 1) ∧
    ∃ s : State, s.turn = .decode ∧ s.cfg.fwd = true ∧ s.e.stalled = false ∧ s.isValid 3 = false ∧ s.isValid 1 = false ∧
      ∀ p ∈ Instr.sources (.add 2 3 1), s.isValid p.2 = true ∨ Forwards (.add 2 3 1) s p.1 p.2 := by
  refine ⟨⟨forwarding (.add 2 3 1) Latch.empty, rfl, rfl, by decide,
      fun p hp => by rw [List.mem_singleton.1 hp]; exact .inr ⟨fun h => absurd h.1 (by decide), .inl (by decide)⟩,
      fun h => absurd h.1 (by decide), fun h => absurd h (by unfold HitsLater; decide)⟩,
    ⟨forwarding (.store 1 2 0) (holding (.add 1 4 5) 0 0 9 0), rfl, rfl, by decide, by decide,
      fun h => h.2 ⟨rfl, 1, 2, 0, rfl, by decide⟩, fun h => absurd h (by unfold HitsLater; decide)⟩,
    ⟨forwarding (.add 2 3 1) (holding (.add 1 4 5) 0 0 9 0), rfl, rfl, rfl, by decide, by decide, ?_⟩⟩
  intro p hp
  rcases List.mem_cons.1 hp with rfl | hp
  · exact .inr (.inr ⟨fun h => absurd h.1 (by decide), .inl (by decide)⟩)
  · rw [List.mem_singleton.1 hp]
    exact .inr (.inl ⟨⟨by decide, by rintro ⟨-, a, b, c, h, -⟩; cases h⟩, by decide⟩)

/-- R157 with R159, vector H6's case: `ADD R2,R1,R3` directly behind the MUL that makes R3 and still holds E; R1 is valid. -/
theorem test_witness_DecodeStallsWithoutDispatch_forwarded :
    (∀ p ∈ Instr.sources (.add 2 1 3),
      ((decoding true (.add 2 1 3) true).setValid 3 false).isValid p.2 = true ∨
        ((decoding true (.add 2 1 3) true).setValid 3 false).cfg.fwd = true ∧
          Forwards (.add 2 1 3) { ((decoding true (.add 2 1 3) true).setValid 3 false) with e := heldMul } p.1 p.2) ∧
    next (exec (.add 2 1 3) { ((decoding true (.add 2 1 3) true).setValid 3 false) with e := heldMul })
      (fun t => t.d.reason == some .downstream && t.d.v2 == 6) = true := by
  refine ⟨fun p hp => ?_, by decide⟩
  rcases List.mem_cons.1 hp with rfl | hp
  · exact .inl (by decide)
  · rw [List.mem_singleton.1 hp]
    exact .inr ⟨rfl, .inl ⟨⟨by decide, by rintro ⟨-, a, b, c, h, -⟩; cases h⟩, by decide⟩⟩

/-- R157: the two invalid sources get the buffers of M and E, and with no producer D stalls. -/
theorem test_forwarding_turn :
    next (exec (.add 2 3 1) (forwarding (.add 2 3 1) (holding (.add 1 4 5) 0 0 9 0)))
      (fun t => t.e.v1 == 15 && t.e.v2 == 9 && !t.isValid 2 && t.prevRd == some 2) = true ∧
    next (exec (.store 1 2 0) (forwarding (.store 1 2 0) (holding (.add 1 4 5) 0 0 9 0)))
      (fun t => t.d.stalled && t.d.reason == some .operand && t.e.buf == 9) = true := by decide

/-- The state of R161's cycle k at its end: LOAD R1 in M and E, `ADD R2,R1,R3` stalled in D, and an older
producer of R1 in W. -/
def loadUse : State :=
  ({ calm true [] with
    m := holding (.load 1 0 0) 0 0 0 9
    e := holding (.load 1 0 0) 0 0 0 9
    d := stalledD (.add 2 1 3) .loadUse
    w := holding (.add 1 4 5) 0 0 7 0
    lu := true
    dm := [(9, 20)] } : State).setValid 1 false

theorem test_witness_LoadUseStallLastsOneCycle :
    loadUse.stop = none ∧ loadUse.cfg.cycleLimit = none ∧ loadUse.cfg.fwd = true ∧ loadUse.pend = .none ∧
    loadUse.m.busy = false ∧ 0 ≤ sint loadUse.m.addr ∧ sint loadUse.m.addr < (loadUse.cfg.dmemWords : Int) ∧
    loadUse.e.busy = false ∧ loadUse.e.stalled = false ∧ loadUse.d.busy = false ∧ loadUse.d.stalled = true ∧
    loadUse.d.reason = some .loadUse ∧ loadUse.isValid 1 = false ∧ loadUse.w.dest = some 1 ∧
    (Slot.rs1, (1 : Reg)) ∈ Instr.sources (.add 2 1 3) ∧
    (∀ p ∈ Instr.sources (.add 2 1 3), p.2 = 1 ∨ loadUse.isValid p.2 = true) ∧
    next (step loadUse) (fun t => t.e.v1 == 20) = true := by decide

/-- Program P4 of 95_test_vectors.md at the end of clock 4: LOAD R2 in M and E, `ADD R3,R2,R1` stalled in D with R1 still
invalid, and R1's producer MOVC in W; the step gives the ADD 11 and 5. -/
def loadUseP4 : State :=
  (({ calm true [] with
    m := holding (.load 2 0 3) 0 0 0 3
    e := holding (.load 2 0 3) 0 0 0 3
    d := stalledD (.add 3 2 1) .loadUse
    w := holding (.movc 1 5) 0 0 5 0
    lu := true
    dm := [(3, 11)] } : State).setValid 1 false).setValid 2 false

theorem test_witness_LoadUseStallLastsOneCycle_P4 :
    loadUseP4.isValid 2 = false ∧ loadUseP4.isValid 1 = false ∧
    (∀ p ∈ Instr.sources (.add 3 2 1),
      p.2 = 2 ∨ loadUseP4.isValid p.2 = true ∨ (loadUseP4.w.busy = false ∧ loadUseP4.w.dest = some p.2)) ∧
    next (step loadUseP4) (fun t => t.e.ins == .instr (.add 3 2 1) && t.e.v1 == 11 && t.e.v2 == 5) = true := by decide

theorem test_witness_NonForwardingBranchWaitsThenCapturesFlag :
    next (decodeStage { calm false [] with d := holding (.bz 8) 0 0 0 0, prevRd := some 1 })
      (fun t => t.d.wait == some 1 && t.d.stalled) = true ∧
    next (decodeStage { calm false [] with flag := some 4, d := { stalledD (.bnz 8) .branchWait with wait := some 1 } })
      (fun t => t.e.snap == some 4 && t.e.resolve && t.e.pc == some 4000) = true ∧
    next (decodeStage { calm false [] with d := { stalledD (.bnz 8) .branchWait with wait := some 1 }, e := heldMul })
      (fun t => t.d.reason == some .downstream && t.d.resolve && t.e == heldMul) = true := by decide

theorem test_witness_NoWriteAfterWriteInterlock :
    Instr.dest (.add 1 2 3) = some 1 ∧ (∀ slot : Slot, (slot, (1 : Reg)) ∉ Instr.sources (.add 1 2 3)) ∧
      (decoding false (.add 1 2 3) false).turn = .decode :=
  ⟨rfl, fun slot => by cases slot <;> decide, rfl⟩

theorem test_witness_MulHoldsExecuteForTwoCycles :
    next (executeStage { calm false [] with e := holding (.mul 3 1 2) 2 3 0 0 }) (fun t => t.e.stalled && t.m.buf == 0)
      = true ∧
    next (executeStage { calm false [] with e := heldMul }) (fun t => !t.e.stalled && t.m.buf == 6) = true ∧
    next (writebackStage { calm false [] with e := heldMul }) (fun t => t.e.stalled) = true ∧
    next (memoryStage { calm false [] with e := heldMul }) (fun t => t.e.stalled) = true ∧
    next (decodeStage { calm false [] with e := heldMul }) (fun t => t.e.stalled) = true ∧
    (fetchStage { calm false [] with e := heldMul }).e.stalled = true := by decide

theorem test_witness_UpstreamBlockedClearsExecute :
    next (executeStage { calm false [] with e := addR3, d := stalledD (.add 1 3 3) .operand })
      (fun t => t.e.ins == .instr .nop && t.m.ins == .instr .nop) = true := by decide

theorem test_witness_ExecuteWritesNoRegisterNoMemory :
    next (executeStage { calm false [] with e := addR3, lu := true }) (fun t => !t.lu && t.pc == 4000) = true := by decide

/-- Both modes, and the not evaluated branch. -/
theorem test_witness_BranchesResolveInExecute :
    ({ calm true [] with turn := .execute, e := holding (.bz 8) 0 0 0 0, m := addR3 } : State).m.dest ≠ none ∧
    ({ calm false [] with e := { holding (.bz 8) 0 0 0 0 with snap := some 0 } } : State).e.snap = some 0 ∧
    (holding (.bz 8) 0 0 0 0).pc = some 4000 ∧ (holding (.bz 8) 0 0 0 0).resolve = false := by decide

theorem test_witness_HaltEmptiesFetchAndDecode :
    next (executeStage { calm false [] with e := holding .halt 0 0 0 0, d := stalledD .nop .downstream })
      (fun t => t.halted && t.m.ins == .instr .halt && t.d.ins == .instr .empty) = true := by decide

theorem test_witness_FetchFaultRecordFaultsInExecute :
    fetchFault (executeStage { calm false [] with e := { Latch.empty with ins := .fetchFault, pc := some 3996 } }) 3996
      = true ∧
    next (executeStage { calm false [] with
      e := { Latch.empty with ins := .fetchFault, pc := some 3996 }
      d := stalledD (.add 1 1 1) .operand }) (fun t => t.e.ins == .instr .nop) = true := by decide

theorem test_witness_DataAddressOutsideMemoryFaults :
    sint (-1) < 0 ∧ ((calm false []).cfg.dmemWords : Int) ≤ sint 10 ∧
    dataFault (memoryStage { calm false [] with m := holding (.store 1 2 0) 0 0 0 10 }) 10 = true ∧
    dataFault (memoryStage { calm false [] with m := holding (.load 1 2 0) 0 0 0 (-1) }) (-1) = true := by decide

/-- LoadComputesAddressThenReads, StoreResolvesDataThenWrites, LoadReadsLastStoredWord: word 9, the last, the STORE and then
the LOAD at their Memory turns. -/
theorem test_witness_StoreAndLoadAtMemory :
    MemoryLegal { calm false [] with dm := [(9, 1)] } ∧ 0 ≤ sint 9 ∧ sint 9 < ((calm false []).cfg.dmemWords : Int) ∧
    next (exec (.store 1 2 0) { calm false [] with turn := .memory, m := holding (.store 1 2 0) 4 0 0 9 })
      (fun t => t.word 9 == 4 && next (exec (.load 1 2 0) t) (fun u => u.m.buf == 4)) = true :=
  ⟨⟨by decide, by decide⟩, by decide, by decide, by decide⟩

theorem test_witness_MemoryGuardStaleLatchAndCopy :
    next (memoryStage { calm false [] with m := { Latch.empty with busy := true }, pend := .flush })
      (fun t => t.pend == .flush) = true ∧
    next (memoryStage { calm false [] with m := holding (.store 1 2 0) 7 0 0 0, e := heldMul })
      (fun t => t.word 0 == 0 && t.w.ins == .instr .nop) = true := by decide

theorem test_witness_BranchFlushDiscardsYounger :
    next (memoryStage (({ calm false [] with pend := .flush, e := addR3 } : State).setValid 3 false))
      (fun t => t.isValid 3 && t.pend == .none) = true := by decide

/-- A target below BASE and not aligned: (3998 - 4000) / 4 rounds down to -1, so done is -2. -/
theorem test_witness_JumpIsAppliedByMemory :
    next (memoryStage { calm false [] with pend := .jump 3998, m := holding (.jump 1 0) 3998 0 0 0, lu := true })
      (fun t => t.done == -2 && !t.lu) = true := by decide

/-- R254 and R27 with a BASE above 2^31, and with one whose store passes 2^31: the targets have index 3 and 2. -/
theorem test_witness_JumpIsAppliedByMemory_high :
    next (memoryStage { calm false [] with
      cfg := { Config.standard with base := 0x80000000 }, pend := .jump 0x8000000C })
      (fun t => t.done == 2) = true ∧
    next (memoryStage { calm false [] with
      cfg := { Config.standard with base := 0x7FFFFFFC }, pend := .jump 0x80000004 })
      (fun t => t.done == 1) = true := by decide

/-- RegisterFileWrittenByWritebackOnly, WritebackRevalidatesUnlessClaimed, FlagHoldsArithmeticResultOnly,
RetirementCountsAllButBubbles: a retirement with no younger claim, with one in E, and of a bubble. -/
theorem test_witness_WritebackStatements :
    next (writebackStage (({ calm false [] with w := addR3 } : State).setValid 3 false))
      (fun t => t.isValid 3 && t.reg 3 == 15 && t.flag == some 15 && t.done == 1) = true ∧
    next (writebackStage (({ calm false [] with w := addR3, e := holding (.movc 3 1) 0 0 1 0 } : State).setValid 3 false))
      (fun t => !t.isValid 3 && t.reg 3 == 15) = true ∧
    next (writebackStage { calm false [] with flag := some 1 }) (fun t => t.flag == none && t.done == 0) = true := by
  decide

/-- RegisterInstructionsFrame, LoadStoreFrame, ControlFrame, and the hypotheses on the turn alone of
AluInstructionsCompute, JumpLeavesItsTargetPending, BubblesOnlyResetFlag and InstructionsRetire: every instruction answers
next at every turn of a calm machine whose M addresses word 0. -/
theorem test_witness_FrameAndTurnStatements :
    ([Stage.fetch, .decode, .execute, .memory, .writeback].all fun turn =>
      [Instr.add 1 2 3, .sub 1 2 3, .mul 1 2 3, .and 1 2 3, .or 1 2 3, .xor 1 2 3, .movc 1 5, .load 1 2 0, .store 1 2 0,
        .bz 8, .bnz 8, .jump 1 0, .halt, .nop, .empty].all fun i =>
        next (exec i { calm false [] with turn := turn }) (fun _ => true)) = true := by decide

/-- InputsNeverChange, OnlyStoreChangesMemory, OnlyRetirementChangesRegisters, ValidityChangesOnlyByClaimRetireFlush,
HaltedIsSetByHaltAndStays, PrevRdFollowsDispatchedFlagProducer: one step in which a STORE changes memory, a retirement changes a register and a claim, and an ADD is dispatched. -/
theorem test_witness_WholeMachineStatements :
    next (step (({ calm false [] with
      w := addR3, m := holding (.store 1 2 0) 7 0 0 4, d := holding (.add 4 5 6) 0 0 0 0 } : State).setValid 3 false))
      (fun t => t.word 4 == 7 && t.reg 3 == 15 && t.isValid 3 && !t.isValid 4 && t.prevRd == some 4) = true ∧
    next (step { calm false [] with e := holding .halt 0 0 0 0 }) (fun t => t.halted) = true ∧
    next (step (({ calm false [] with pend := .flush, e := addR3 } : State).setValid 3 false)) (fun t => t.isValid 3)
      = true := by decide

theorem test_witness_StepFaultsOnlyAsListed :
    dataFault (step { calm false [0x0] with m := holding (.load 1 0 0) 0 0 0 10 }) 10 = true ∧
    fetchFault (step { calm false [0x0] with e := { Latch.empty with ins := .fetchFault, pc := some 3996 } }) 3996
      = true := by decide

/-- A legal state whose step answers a next state: the machine after reset with a program. -/
theorem test_witness_StepKeepsLegal :
    Legal (State.resetWith Config.standard [encode (.add 3 1 2)] []) ∧
      next (step (State.resetWith Config.standard [encode (.add 3 1 2)] [])) (fun _ => true) = true := by
  refine ⟨?_, by decide⟩
  constructor
  case memory => exact ⟨rfl, rfl⟩
  case backFlows => exact ⟨rfl, rfl⟩
  case noLateFault => exact ⟨by decide, by decide⟩
  all_goals first
    | rfl
    | decide
    | (intro st; cases st <;> decide)

theorem test_witness_ResetIsLegal : Memory.wf [(9, 1)] = true ∧ Memory.below 10 [(9, 1)] = true := by decide

end Sys2Proof.Tests
end

section
/-! No turn writes the instruction store or the configuration (20_memory.md R62, 00_scope.md R7): one lemma for each
stage, composed over the cycle and the step. -/

namespace Sys2Proof.Machine

theorem SameInputs.refl (s : State) : SameInputs s s := ⟨rfl, rfl⟩

theorem SameInputs.trans {s t u : State} (hst : SameInputs s t) (htu : SameInputs t u) : SameInputs s u :=
  ⟨htu.1.trans hst.1, htu.2.trans hst.2⟩

/-! ### What the stages run keeps the inputs -/

theorem retire_sameInputs (i : Instr) (s : State) : SameInputs s (retire i s) := by
  rw [retire_eq]
  exact ⟨rfl, rfl⟩

theorem resolveBranch_sameInputs (cond : Word → Bool) (imm : Word) (s : State) :
    SameInputs s (resolveBranch cond imm s) :=
  ⟨afterTest_store s, afterTest_cfg s⟩

theorem run_sameInputs (i : Instr) (s : State) : SameInputs s (run i s) := by
  cases i
  case bz imm => exact resolveBranch_sameInputs isZero imm s
  case bnz imm => exact resolveBranch_sameInputs isNonzero imm s
  all_goals exact ⟨rfl, rfl⟩

theorem copyUnlessHeld_sameInputs (s : State) : SameInputs s (copyUnlessHeld s) := by
  unfold copyUnlessHeld
  split <;> exact ⟨rfl, rfl⟩

theorem issue_sameInputs (i : Instr) (s : State) : SameInputs s (issue i s) :=
  ⟨issue_store i s, issue_cfg i s⟩

/-! ### Each stage's turn keeps the inputs -/

theorem writebackStage_sameInputs {s t : State} (h : writebackStage s = .next t) : SameInputs s t := by
  rw [writebackStage_eq, Host.Outcome.next.injEq] at h
  subst h
  split
  · exact ⟨rfl, rfl⟩
  · split
    · exact retire_sameInputs _ (s.atTurn .writeback)
    · exact ⟨rfl, rfl⟩

/-- A STORE's write goes to the data memory, and a pending flush or jump to F, D, E and the control state. -/
theorem memoryStage_sameInputs {s t : State} (h : memoryStage s = .next t) : SameInputs s t := by
  obtain ⟨-, rfl⟩ | ⟨-, u, rfl, access⟩ := memoryStage_cases h
  · exact ⟨rfl, rfl⟩
  · have hu : SameInputs s u := by
      obtain ⟨-, rfl⟩ | ⟨-, _, _, _, _, -, -, rfl⟩ | ⟨-, _, _, _, _, -, -, rfl⟩ | ⟨-, -, -, rfl⟩ := access <;>
        exact ⟨rfl, rfl⟩
    exact hu.trans ⟨by simp, by simp⟩

theorem executeStage_sameInputs {s t : State} (h : executeStage s = .next t) : SameInputs s t := by
  rw [executeStage_eq] at h
  split_ifs at h
  · cases h; exact ⟨rfl, rfl⟩
  · cases h; exact ⟨rfl, rfl⟩
  · cases h; exact ⟨rfl, rfl⟩
  · split at h
    · next i _ =>
      cases h
      exact (run_sameInputs i s.atExecute).trans (copyUnlessHeld_sameInputs _)
    · cases h

theorem decodeStage_sameInputs {s t : State} (h : decodeStage s = .next t) : SameInputs s t := by
  have hpre : SameInputs s (preChecks (s.atTurn .decode)) := ⟨by simp, by simp⟩
  rw [decodeStage_eq, Host.Outcome.next.injEq] at h
  subst h
  refine hpre.trans ?_
  dsimp only
  split
  · exact .refl _
  · split
    · exact issue_sameInputs _ _
    · exact ⟨issueFetchFault_store _, issueFetchFault_cfg _⟩

theorem fetchStage_sameInputs (s : State) : SameInputs s (fetchStage s) :=
  ⟨fetchStage_store s, fetchStage_cfg s⟩

/-! ### The cycle and the step keep the inputs -/

theorem cycle_sameInputs {s t : State} (h : cycle s = .next t) : SameInputs s t := by
  obtain ⟨a, b, c, d, hw, hm, he, hd, rfl⟩ := cycle_eq_next.1 h
  have hsd : SameInputs s d :=
    (writebackStage_sameInputs hw).trans <| (memoryStage_sameInputs hm).trans <|
      (executeStage_sameInputs he).trans (decodeStage_sameInputs hd)
  exact hsd.trans (fetchStage_sameInputs d)

/-- Settles O48: each of the five turns keeps the inputs, and the driver around them writes only the clock and the stop
reason. -/
theorem inputsNeverChange : Obligations.InputsNeverChange := by
  intro s t h
  obtain ⟨-, rfl⟩ | ⟨-, -, rfl⟩ | ⟨-, -, u, hu, rfl⟩ := step_cases h
  · exact .refl t
  · exact ⟨rfl, rfl⟩
  · exact (cycle_sameInputs hu).trans ⟨State.checkComplete_store u, State.checkComplete_cfg u⟩

end Sys2Proof.Machine
end

section
/-! The worked words of 30_encoding.md R81: closed instances of the packing of R75 and the codes of R76. -/

namespace Sys2Proof

/-- Settles O3: each half of each pair is a closed evaluation, of the five fields of R75 in the word (decode), or of the
word put together from them (encode); BNZ's -8 fills bits 31:0 in two's complement. -/
theorem workedEncodings : Obligations.WorkedEncodings := by
  refine ⟨?movc, ?add, ?store, ?bz, ?bnz, ?jump, ?halt⟩
  all_goals exact ⟨rfl, rfl⟩

end Sys2Proof
end

section
/-! The cycle's order and Fetch's turn (40_pipeline_driver_fetch.md R100, R110 to R113): one equation for each path of
`fetchStage`, and for what the normal path does with the record it read. -/

namespace Sys2Proof.Machine

/-! ### The latch that Fetch fills -/

/-- What the normal path puts into F: the record read at pc, or EMPTY after a HALT (R111). -/
def State.fetchedLatch (s : State) (r : Resident) : Latch := if s.halted then Latch.empty else Latch.fetched r s.pc

/-- Its control bits are at reset value, so the copy into D is the latch itself. -/
theorem State.fetchedLatch_copy (s : State) (r : Resident) : (s.fetchedLatch r).copy = s.fetchedLatch r := by
  unfold State.fetchedLatch
  split <;> rfl

theorem fetchRecord_of_decode_free {r : Resident} {s : State} (hd : s.d.stalled = false) :
    fetchRecord r s = { s with pc := s.pc + 4, f := s.fetchedLatch r, d := s.fetchedLatch r } := by
  have hand : fetchRecord r s =
      { s with pc := s.pc + 4, f := s.fetchedLatch r, d := (s.fetchedLatch r).copy } := by
    simp only [fetchRecord, handToDecode, hd, Bool.false_eq_true, if_false]
    rfl
  rw [hand, State.fetchedLatch_copy]

theorem fetchRecord_of_decode_stalled {r : Resident} {s : State} (hd : s.d.stalled = true) :
    fetchRecord r s =
      { s with pc := s.pc + 4, f := { s.fetchedLatch r with stalled := true, reason := some .deferral } } := by
  simp only [fetchRecord, handToDecode, hd, if_true]
  rfl

/-! ### The paths of Fetch's turn -/

theorem fetchStage_eq_catchUp {s : State} (hf : s.f.stalled = true) (hr : s.f.reason = some .deferral)
    (hd : s.d.stalled = false) : fetchStage s = fetchCatchUp (s.atTurn .fetch) := by
  simp [fetchStage, hf, hr, hd]

theorem fetchStage_eq_hold_of_stalled {s : State} (hf : s.f.stalled = true)
    (h : s.f.reason ≠ some .deferral ∨ s.d.stalled = true) : fetchStage s = s.atTurn .fetch := by
  obtain hr | hd := h
  · simp [fetchStage, hf, hr]
  · simp [fetchStage, hf, hd]

theorem fetchStage_eq_hold_of_busy {s : State} (hf : s.f.stalled = false) (hb : s.f.busy = true) :
    fetchStage s = s.atTurn .fetch := by
  simp [fetchStage, hf, hb]

section NormalPath
variable {s : State} (hb : s.f.busy = false) (hf : s.f.stalled = false)
include hb hf

theorem fetchStage_eq_hold_of_reserved (h : isRead s s.pc = none) : fetchStage s = s.atTurn .fetch := by
  have ht : isRead (s.atTurn .fetch) s.pc = none := h
  simp [fetchStage, hb, hf, ht]

theorem fetchStage_eq_fetchRecord {r : Resident} (h : isRead s s.pc = some r) :
    fetchStage s = fetchRecord r (s.atTurn .fetch) := by
  have ht : isRead (s.atTurn .fetch) s.pc = some r := h
  simp [fetchStage, hb, hf, ht]

end NormalPath

/-! ### The obligations -/

/-- Settles O9: `cycle_eq_next`, with the end of the cycle written out as the clock and the next turn. -/
theorem cycleRunsTheFiveTurnsInOrder : Obligations.CycleRunsTheFiveTurnsInOrder :=
  fun _ _ => cycle_eq_next

/-- Settles O13: a reserved slot holds Fetch; any other record is handed on to a free D or deferred behind a stalled
one. -/
theorem fetchNormalPath : Obligations.FetchNormalPath := by
  intro s hb hf
  refine ⟨fetchStage_eq_hold_of_reserved hb hf, ?_⟩
  rintro r l hread rfl
  rw [fetchStage_eq_fetchRecord hb hf hread]
  exact ⟨fun hd => fetchRecord_of_decode_free hd, fun hd => fetchRecord_of_decode_stalled hd⟩

/-- Settles O14: the catch-up path, F stalled without it, and F busy. A copy clears the stall and the reason anyway, so
D's copy of the cleared F is that of the F held before. -/
theorem fetchCatchUpOrHold : Obligations.FetchCatchUpOrHold := by
  intro s
  refine ⟨?catchUp, fetchStage_eq_hold_of_stalled, fetchStage_eq_hold_of_busy⟩
  case catchUp =>
    intro hf hr hd
    exact fetchStage_eq_catchUp hf hr hd

end Sys2Proof.Machine
end

section
/-! Decode's stall-clearing pre-checks (41_decode_hazards.md R141 to R145): the condition of each as a proposition, each
pre-check as a choice on its condition, and the four together. -/

namespace Sys2Proof.Machine

/-! ### The conditions, and P3's marked release -/

/-- P1's condition (R141): D has a source, and each of its sources is valid. -/
def State.SourcesReady (s : State) : Prop := s.d.sources ≠ [] ∧ ∀ p ∈ s.d.sources, s.isValid p.2 = true

/-- P2's condition (R142): D waits behind Execute, and Execute is free. -/
def State.DownstreamFree (s : State) : Prop := s.d.reason = some .downstream ∧ s.e.stalled = false

/-- P3's condition (R143): a non-forwarding branch waits for the flag, and the register it waits on, if any, is valid. -/
def State.BranchWaitOver (s : State) : Prop :=
  s.cfg.fwd = false ∧ s.d.isBranch = true ∧ s.d.reason = some .branchWait ∧
    ∀ r, s.d.wait = some r → s.isValid r = true

/-- P4's condition (R144): D waits for a load's value, and Execute has cleared the load-use flag. -/
def State.LoadUseOver (s : State) : Prop := s.d.reason = some .loadUse ∧ s.lu = false

/-- P3's release, which marks D for the flag capture of R156. -/
def State.releaseBranch (s : State) : State := { s.release with d := { s.release.d with released := true } }

theorem waitOver_iff {s : State} : waitOver s = true ↔ ∀ r, s.d.wait = some r → s.isValid r = true := by
  unfold waitOver
  split <;> simp_all

/-- D's stall has one reason, so P3 and P4 never hold together. -/
theorem State.LoadUseOver.not_branchWaitOver {s : State} (h : s.LoadUseOver) : ¬s.BranchWaitOver := by
  rintro ⟨-, -, hb, -⟩
  simp [h.1] at hb

/-! ### A D that is not stalled -/

section NotStalled
variable {s : State} (hs : s.d.stalled = false)
include hs

theorem preCheck1_of_not_stalled : preCheck1 s = s := by simp [preCheck1, hs]
theorem preCheck2_of_not_stalled : preCheck2 s = s := by simp [preCheck2, hs]
theorem preCheck3_of_not_stalled : preCheck3 s = s := by simp [preCheck3, hs]
theorem preCheck4_of_not_stalled : preCheck4 s = s := by simp [preCheck4, hs]

theorem preChecks_of_not_stalled : preChecks s = s := by
  rw [preChecks, preCheck1_of_not_stalled hs, preCheck2_of_not_stalled hs, preCheck3_of_not_stalled hs,
    preCheck4_of_not_stalled hs]

end NotStalled

/-! ### A stalled D -/

section Stalled
open Classical
variable {s : State} (hs : s.d.stalled = true)
include hs

theorem preCheck1_eq : preCheck1 s = if s.SourcesReady then s.release else s :=
  if_congr (by simp [hs, State.SourcesReady]) rfl rfl

theorem preCheck2_eq : preCheck2 s = if s.DownstreamFree then s.release else s :=
  if_congr (by simp [hs, State.DownstreamFree]) rfl rfl

theorem preCheck3_eq : preCheck3 s = if s.BranchWaitOver then s.releaseBranch else s :=
  if_congr (by simp [hs, State.BranchWaitOver, waitOver_iff, and_assoc]) rfl rfl

theorem preCheck4_eq : preCheck4 s = if s.LoadUseOver then s.release else s :=
  if_congr (by simp [hs, State.LoadUseOver]) rfl rfl

/-- The first condition that holds decides (R145): its release leaves D not stalled, and the later pre-checks idle. -/
theorem preChecks_eq : preChecks s =
    if s.SourcesReady ∨ s.DownstreamFree then s.release
    else if s.BranchWaitOver then s.releaseBranch
    else if s.LoadUseOver then s.release
    else s := by
  have free : s.release.d.stalled = false := rfl
  unfold preChecks
  by_cases h1 : s.SourcesReady
  · rw [preCheck1_eq hs, if_pos h1, if_pos (.inl h1), preCheck2_of_not_stalled free, preCheck3_of_not_stalled free,
      preCheck4_of_not_stalled free]
  rw [preCheck1_eq hs, if_neg h1]
  by_cases h2 : s.DownstreamFree
  · rw [preCheck2_eq hs, if_pos h2, if_pos (.inr h2), preCheck3_of_not_stalled free, preCheck4_of_not_stalled free]
  rw [preCheck2_eq hs, if_neg h2, if_neg (not_or.2 ⟨h1, h2⟩)]
  by_cases h3 : s.BranchWaitOver
  · rw [preCheck3_eq hs, if_pos h3, if_pos h3, preCheck4_of_not_stalled (s := s.releaseBranch) rfl]
  rw [preCheck3_eq hs, if_neg h3, if_neg h3, preCheck4_eq hs]

end Stalled

/-! ### The obligation -/

/-- Settles O15: `preChecks_eq` read at each condition; P4's release is P4's own because its reason rules out P3. -/
theorem preChecksReleaseExactly : Obligations.PreChecksReleaseExactly := by
  refine fun s => ⟨preChecks_of_not_stalled, ?stalled⟩
  case stalled =>
    intro hs P1 P2 P3 P4 h1 h2 h3 h4
    obtain rfl : P1 = s.SourcesReady := propext h1
    obtain rfl : P2 = s.DownstreamFree := propext h2
    obtain rfl : P3 = s.BranchWaitOver := propext h3
    obtain rfl : P4 = s.LoadUseOver := propext h4
    rw [preChecks_eq hs]
    refine ⟨?release, ?marked, ?unchanged⟩
    case release =>
      intro h
      by_cases h12 : s.SourcesReady ∨ s.DownstreamFree
      · exact if_pos h12
      · have hl : s.LoadUseOver := by tauto
        rw [if_neg h12, if_neg hl.not_branchWaitOver, if_pos hl]
        rfl
    case marked =>
      rintro ⟨hb, hr, hd⟩
      rw [if_neg (not_or.2 ⟨hr, hd⟩), if_pos hb]
      rfl
    case unchanged =>
      intro hr hd hb hl
      rw [if_neg (not_or.2 ⟨hr, hd⟩), if_neg hb, if_neg hl]

end Sys2Proof.Machine
end

section
/-! Writeback's turn (42_execute_memory_writeback.md R205 to R209): the turn by what W holds, and what a retirement
leaves in FLAG and done. -/

namespace Sys2Proof.Machine

/-! ### The instruction in a latch -/

theorem Latch.dest_of_instr {l : Latch} {i : Instr} (h : l.ins = .instr i) : l.dest = Instr.dest i := by
  simp only [Latch.dest, h]

theorem Latch.dest_of_fetchFault {l : Latch} (h : l.ins = .fetchFault) : l.dest = none := by
  simp only [Latch.dest, h]

theorem Latch.isBranch_of_instr {l : Latch} {i : Instr} (h : l.ins = .instr i) : l.isBranch = Instr.isBranch i := by
  simp only [Latch.isBranch, h]

/-! ### What a retirement leaves in FLAG and done -/

/-- FLAG gets the buffer from a flag producer and NONE from everything else (R208). -/
theorem retire_flag (i : Instr) (s : State) : (retire i s).flag = (Instr.flagDest i).map fun _ => s.w.buf := by
  cases i <;>
    simp [retire, Instr.flagDest, Instr.dest, retireArith, retireResult, retirePlain, retireBubble, State.addDone,
      State.setFlag]

/-- Only a bubble is not counted (R209). -/
theorem retire_done (i : Instr) (s : State) :
    (retire i s).done = if i = .nop ∨ i = .empty then s.done else s.done + 1 := by
  cases i <;>
    simp [retire, Instr.flagDest, Instr.dest, retireArith, retireResult, retirePlain, retireBubble, State.addDone,
      State.setFlag]

/-! ### The turn -/

/-- What Writeback answers, by what W holds. -/
theorem writebackStage_cases {s t : State} (h : writebackStage s = .next t) :
    (s.w.busy = true ∧ t = s.atTurn .writeback) ∨
    (s.w.busy = false ∧ ∃ i, s.w.ins = .instr i ∧ t = retire i (s.atTurn .writeback)) ∨
    (s.w.busy = false ∧ s.w.ins = .fetchFault ∧ t = retirePlain (s.atTurn .writeback)) := by
  rw [writebackStage_eq, Host.Outcome.next.injEq] at h
  subst h
  cases hb : s.w.busy with
  | true => exact .inl ⟨rfl, rfl⟩
  | false =>
    cases hi : s.w.ins with
    | instr i => exact .inr (.inl ⟨rfl, i, rfl, rfl⟩)
    | fetchFault => exact .inr (.inr ⟨rfl, rfl, rfl⟩)

theorem writebackStage_reg {s t : State} (h : writebackStage s = .next t) (r : Reg) :
    t.reg r = if s.w.busy = false ∧ s.w.dest = some r then s.w.buf else s.reg r := by
  obtain ⟨hb, rfl⟩ | ⟨hb, i, hi, rfl⟩ | ⟨hb, hi, rfl⟩ := writebackStage_cases h
  · simp only [hb, Bool.true_eq_false, false_and, if_false]
    rfl
  · simp only [retire_reg, hb, Latch.dest_of_instr hi, true_and]
    rfl
  · simp only [Latch.dest_of_fetchFault hi, reduceCtorEq, and_false, if_false]
    rfl

theorem writebackStage_e {s t : State} (h : writebackStage s = .next t) : t.e = s.e := by
  obtain ⟨-, rfl⟩ | ⟨-, i, -, rfl⟩ | ⟨-, -, rfl⟩ := writebackStage_cases h
  · rfl
  · rw [retire_eq]
    rfl
  · rfl

/-- Settles O41: a busy W keeps every bit, a retirement sets the destination's unless E claims it (`retire_isValid`),
and a FETCHFAULT record has no destination. -/
theorem writebackRevalidatesUnlessClaimed : Obligations.WritebackRevalidatesUnlessClaimed := by
  intro s t h r
  obtain ⟨hb, rfl⟩ | ⟨hb, i, hi, rfl⟩ | ⟨hb, hi, rfl⟩ := writebackStage_cases h
  · simp only [hb, Bool.true_eq_false, false_and, if_false]
    rfl
  · simp only [retire_isValid, hb, Latch.dest_of_instr hi, true_and]
    rfl
  · simp only [Latch.dest_of_fetchFault hi, reduceCtorEq, false_and, and_false, if_false]
    rfl

/-- Settles O42: `retire_flag` read at the three flag producers and at the rest. -/
theorem flagHoldsArithmeticResultOnly : Obligations.FlagHoldsArithmeticResultOnly := by
  intro s t h hb
  obtain ⟨hb', -⟩ | ⟨-, i, hi, rfl⟩ | ⟨-, hi, rfl⟩ := writebackStage_cases h
  · simp [hb] at hb'
  · rw [retire_flag, hi]
    refine ⟨?producer, ?other⟩
    case producer =>
      rintro rd a b (hp | hp | hp) <;> cases hp <;> rfl
    case other =>
      intro hp
      cases i
      case add rd a b => exact absurd rfl (hp rd a b).1
      case sub rd a b => exact absurd rfl (hp rd a b).2.1
      case mul rd a b => exact absurd rfl (hp rd a b).2.2
      all_goals rfl
  · exact ⟨by simp [hi], fun _ => rfl⟩

/-- Settles O43: `retire_done`, whose bubbles are those of the latch. -/
theorem retirementCountsAllButBubbles : Obligations.RetirementCountsAllButBubbles := by
  intro s t h hb
  obtain ⟨hb', -⟩ | ⟨-, i, hi, rfl⟩ | ⟨-, hi, rfl⟩ := writebackStage_cases h
  · simp [hb] at hb'
  · have bubble : Bubble s.w ↔ i = .nop ∨ i = .empty := by simp [Bubble, hi, or_comm]
    rw [retire_done, bubble]
    exact ⟨fun h => if_pos h, fun h => if_neg h⟩
  · exact ⟨fun h => by simp [Bubble, hi] at h, fun _ => rfl⟩

end Sys2Proof.Machine
end

section
/-! Memory's turn (42_execute_memory_writeback.md R195 to R203): the turn of a free M as its access, which changes M
and the data memory only, followed by the pending action; and the branch flush of R201. -/

namespace Sys2Proof.Machine

/-- A LOAD's access writes M's buffer, a STORE's the data memory, and nothing else accesses anything. -/
theorem memoryStage_eq_afterAccess {s t : State} (h : memoryStage s = .next t) (hb : s.m.busy = false) :
    ∃ m dm, t =
      ((applyPending { s with turn := .memory, m := m, dm := dm }).dropStale s.e.stalled).copyToWriteback := by
  obtain ⟨hb', -⟩ | ⟨-, u, rfl, access⟩ := memoryStage_cases h
  · simp [hb] at hb'
  · refine ⟨u.m, u.dm, ?_⟩
    have hu : u = { s with turn := .memory, m := u.m, dm := u.dm } := by
      obtain ⟨-, rfl⟩ | ⟨-, _, _, _, _, -, -, rfl⟩ | ⟨-, _, _, _, _, -, -, rfl⟩ | ⟨-, -, -, rfl⟩ := access <;> rfl
    rw [← hu]

/-- A flush and a jump both leave a NOP in E (R106). -/
theorem applyPending_e (s : State) : (applyPending s).e = if s.pend = .none then s.e else Latch.nop := by
  unfold applyPending
  cases s.pend <;> rfl

/-- A pending action frees E, and without one E is kept. -/
theorem memoryStage_e_stalled {s t : State} (h : memoryStage s = .next t) (ht : t.e.stalled = true) :
    s.e.stalled = true := by
  obtain ⟨-, rfl⟩ | ⟨hb, -⟩ := memoryStage_cases h
  · exact ht
  · obtain ⟨m, dm, rfl⟩ := memoryStage_eq_afterAccess h hb
    simp only [State.copyToWriteback_e, State.dropStale_e, applyPending_e] at ht
    split at ht
    · exact ht
    · cases ht

theorem memoryStage_x {s t : State} (h : memoryStage s = .next t) : t.x = s.x := by
  obtain ⟨-, rfl⟩ | ⟨hb, -⟩ := memoryStage_cases h
  · rfl
  · obtain ⟨m, dm, rfl⟩ := memoryStage_eq_afterAccess h hb
    simp

theorem State.flushYounger_isValid (s : State) (r : Reg) :
    s.flushYounger.isValid r = (decide (s.e.dest = some r) || s.isValid r) := by
  rw [State.isValid_congr s.flushYounger_valid, State.isValid_setValidOpt]
  by_cases hr : s.e.dest = some r
  · simp [hr]
  · simp [hr]

/-- Settles O38: after the access the pending flush is `applyFlush`, and neither the stale M nor the copy into W
touches what it left. -/
theorem branchFlushDiscardsYounger : Obligations.BranchFlushDiscardsYounger := by
  intro s t hb hp h
  obtain ⟨m, dm, rfl⟩ := memoryStage_eq_afterAccess h hb
  have flush : applyPending { s with turn := .memory, m := m, dm := dm } =
      applyFlush { s with turn := .memory, m := m, dm := dm } := by
    simp only [applyPending, hp]
  rw [flush]
  refine ⟨?f, ?d, ?e, ?pend, fun r => ?valid, ?pc, ?done, fun r => State.reg_congr ?x r, ?flag⟩
  case valid =>
    rw [State.isValid_congr (State.copyToWriteback_valid _), State.isValid_congr (State.dropStale_valid _ _)]
    exact State.flushYounger_isValid _ r
  all_goals simp [applyFlush, Latch.nop]

end Sys2Proof.Machine
end

section
/-! Execute's turn (42_execute_memory_writeback.md R180 to R187): one equation for each path of `executeStage`, what
the opcode rule may change, and what can hold E. -/

namespace Sys2Proof.Machine

/-! ### The paths of Execute's turn -/

theorem upstreamBlocked_iff {s : State} :
    upstreamBlocked s = true ↔ s.d.stalled = true ∧ s.d.reason ≠ some .downstream ∧ s.e.isBranch = false := by
  simp [upstreamBlocked, and_assoc]

theorem executeStage_eq_finishMul {s : State} (hb : s.e.busy = false) (hs : s.e.stalled = true) :
    executeStage s = .next (finishMul s.atExecute) := by
  simp [executeStage_eq, hb, hs]

section Free
variable {s : State} (hb : s.e.busy = false) (hs : s.e.stalled = false)
include hb hs

theorem executeStage_eq_clearExecute (hu : upstreamBlocked s = true) :
    executeStage s = .next (clearExecute s.atExecute) := by
  simp [executeStage_eq, hb, hs, hu]

theorem executeStage_eq_run (hu : upstreamBlocked s = false) {i : Instr} (hi : s.e.ins = .instr i) :
    executeStage s = .next (copyUnlessHeld (run i s.atExecute)) := by
  simp [executeStage_eq, hb, hs, hu, hi]

end Free

/-- The ways in which Execute answers a next state. -/
theorem executeStage_cases {s t : State} (h : executeStage s = .next t) :
    (s.e.busy = true ∧ t = s.atExecute) ∨
    (s.e.busy = false ∧ s.e.stalled = true ∧ t = finishMul s.atExecute) ∨
    (s.e.busy = false ∧ s.e.stalled = false ∧ upstreamBlocked s = true ∧ t = clearExecute s.atExecute) ∨
    (s.e.busy = false ∧ s.e.stalled = false ∧ upstreamBlocked s = false ∧
      ∃ i, s.e.ins = .instr i ∧ t = copyUnlessHeld (run i s.atExecute)) := by
  rw [executeStage_eq] at h
  cases hb : s.e.busy
  case true =>
    simp only [hb, if_true] at h
    exact .inl ⟨rfl, by cases h; rfl⟩
  cases hs : s.e.stalled
  case true =>
    simp only [hb, hs, Bool.false_eq_true, if_true, if_false] at h
    exact .inr (.inl ⟨rfl, rfl, by cases h; rfl⟩)
  cases hu : upstreamBlocked s
  case true =>
    simp only [hb, hs, hu, Bool.false_eq_true, if_true, if_false] at h
    exact .inr (.inr (.inl ⟨rfl, rfl, rfl, by cases h; rfl⟩))
  cases hi : s.e.ins with
  | instr i =>
    simp only [hb, hs, hu, hi, Bool.false_eq_true, if_false] at h
    exact .inr (.inr (.inr ⟨rfl, rfl, rfl, i, rfl, by cases h; rfl⟩))
  | fetchFault => simp [hb, hs, hu, hi] at h

/-! ### What Execute may change -/

theorem afterTest_eq (s : State) : afterTest s = { s with draws := (afterTest s).draws } := by
  unfold afterTest
  split <;> rfl

theorem resolveBranch_eq (cond : Word → Bool) (imm : Word) (s : State) :
    resolveBranch cond imm s = { s with
      pc := (resolveBranch cond imm s).pc
      done := (resolveBranch cond imm s).done
      pend := (resolveBranch cond imm s).pend
      draws := (resolveBranch cond imm s).draws } := by
  unfold resolveBranch
  rw [afterTest_eq]

/-- An opcode rule writes E and the control state, and reaches F and D only by a HALT (R187). -/
theorem run_eq (i : Instr) (s : State) :
    run i s = { s with
      pc := (run i s).pc
      halted := (run i s).halted
      done := (run i s).done
      pend := (run i s).pend
      f := (run i s).f
      d := (run i s).d
      e := (run i s).e
      draws := (run i s).draws } := by
  cases i
  case bz imm => rw [run, resolveBranch_eq]
  case bnz imm => rw [run, resolveBranch_eq]
  all_goals rfl

theorem run_younger {i : Instr} (h : i ≠ .halt) (s : State) :
    (run i s).f = s.f ∧ (run i s).d = s.d ∧ (run i s).halted = s.halted := by
  cases i
  case halt => exact absurd rfl h
  case bz imm => exact ⟨afterTest_f s, afterTest_d s, afterTest_halted s⟩
  case bnz imm => exact ⟨afterTest_f s, afterTest_d s, afterTest_halted s⟩
  all_goals exact ⟨rfl, rfl, rfl⟩

theorem run_pc {i : Instr} (h : Instr.isBranch i = false) (s : State) : (run i s).pc = s.pc := by
  cases i
  case bz => cases h
  case bnz => cases h
  all_goals rfl

theorem run_e_stalled {i : Instr} (h : ∀ rd rs1 rs2, i ≠ .mul rd rs1 rs2) (s : State) :
    (run i s).e.stalled = s.e.stalled := by
  cases i
  case mul rd rs1 rs2 => exact absurd rfl (h rd rs1 rs2)
  case bz => exact congrArg Latch.stalled (afterTest_e s)
  case bnz => exact congrArg Latch.stalled (afterTest_e s)
  all_goals rfl

theorem copyUnlessHeld_eq (s : State) : copyUnlessHeld s = { s with m := (copyUnlessHeld s).m } := by
  unfold copyUnlessHeld
  split <;> rfl

/-- The frame of Execute's turn: what is not listed is as before. -/
theorem executeStage_frame {s t : State} (h : executeStage s = .next t) :
    t = { s with
      pc := t.pc
      halted := t.halted
      done := t.done
      pend := t.pend
      lu := false
      f := t.f
      d := t.d
      e := t.e
      m := t.m
      turn := .execute
      draws := t.draws } := by
  obtain ⟨-, rfl⟩ | ⟨-, -, rfl⟩ | ⟨-, -, -, rfl⟩ | ⟨-, -, -, i, -, rfl⟩ := executeStage_cases h
  · rfl
  · rfl
  · rfl
  · rw [copyUnlessHeld_eq, run_eq]
    rfl

/-- Settles O27: the frame of the turn, and on the path that runs the opcode rule what `run` keeps of F, D, HALTED and
pc. -/
theorem executeWritesNoRegisterNoMemory : Obligations.ExecuteWritesNoRegisterNoMemory := by
  intro s t h
  have frame := executeStage_frame h
  refine ⟨by rw [frame], by rw [frame], by rw [frame], by rw [frame], by rw [frame], by rw [frame], by rw [frame],
    executeStage_sameInputs h, by rw [frame], by rw [frame], ?_⟩
  obtain ⟨-, rfl⟩ | ⟨-, -, rfl⟩ | ⟨-, -, -, rfl⟩ | ⟨-, -, -, i, hi, rfl⟩ := executeStage_cases h
  · exact ⟨fun _ => ⟨rfl, rfl, rfl⟩, fun _ => rfl⟩
  · exact ⟨fun _ => ⟨rfl, rfl, rfl⟩, fun _ => rfl⟩
  · exact ⟨fun _ => ⟨rfl, rfl, rfl⟩, fun _ => rfl⟩
  · rw [copyUnlessHeld_eq, hi, Latch.isBranch_of_instr hi]
    exact ⟨fun hh => run_younger (fun e => hh (congrArg Resident.instr e)) _, fun hp => run_pc hp _⟩

/-- Settles O26: the path of a blocked upstream, with the NOP of `clearExecute` written out. -/
theorem upstreamBlockedClearsExecute : Obligations.UpstreamBlockedClearsExecute := by
  intro s hb hs hbr hd hr
  exact executeStage_eq_clearExecute hb hs (upstreamBlocked_iff.2 ⟨hd, hr, hbr⟩)

/-- Execute itself holds E only on a MUL (R184): clearing and copying leave it free, and no other opcode rule touches
it. -/
theorem ins_eq_mul_of_executeStage_stalls {s t : State} (h : executeStage s = .next t) (ht : t.e.stalled = true)
    (hs : s.e.stalled = false) : ∃ rd rs1 rs2, s.e.ins = .instr (.mul rd rs1 rs2) := by
  by_contra hn
  obtain ⟨-, rfl⟩ | ⟨-, hs', -⟩ | ⟨-, -, -, rfl⟩ | ⟨-, -, -, i, hi, rfl⟩ := executeStage_cases h
  · simp [hs] at ht
  · simp [hs] at hs'
  · cases ht
  · have hm : ∀ rd rs1 rs2, i ≠ .mul rd rs1 rs2 := by
      rintro rd rs1 rs2 rfl
      exact hn ⟨rd, rs1, rs2, hi⟩
    have kept : (copyUnlessHeld (run i s.atExecute)).e.stalled = s.e.stalled := by
      rw [copyUnlessHeld_eq]
      exact run_e_stalled hm s.atExecute
    simp [kept, hs] at ht

end Sys2Proof.Machine
end

section
/-! Decode's turn (41_decode_hazards.md R140): the turn by what the pre-checks leave in D, and that it neither stalls E
nor writes a register. -/

namespace Sys2Proof.Machine

/-- What Decode answers, by what the pre-checks leave in D. -/
theorem decodeStage_cases {s t : State} (h : decodeStage s = .next t) :
    ∃ p, p = preChecks (s.atTurn .decode) ∧
      (((p.d.busy || p.d.stalled) = true ∧ t = p) ∨
       ((p.d.busy || p.d.stalled) = false ∧ ∃ i, p.d.ins = .instr i ∧ t = issue i p) ∨
       ((p.d.busy || p.d.stalled) = false ∧ p.d.ins = .fetchFault ∧ t = issueFetchFault p)) := by
  rw [decodeStage_eq, Host.Outcome.next.injEq] at h
  subst h
  refine ⟨_, rfl, ?_⟩
  generalize preChecks (s.atTurn .decode) = p
  cases hg : p.d.busy || p.d.stalled with
  | true => exact .inl ⟨rfl, by simp only [hg, if_true]⟩
  | false =>
    cases hi : p.d.ins with
    | instr i => exact .inr (.inl ⟨rfl, i, rfl, by simp only [hg, hi, Bool.false_eq_true, if_false]⟩)
    | fetchFault => exact .inr (.inr ⟨rfl, rfl, by simp only [hg, hi, Bool.false_eq_true, if_false]⟩)

/-- Decode's main logic keeps E or dispatches a copy of D into it, and a copy is not stalled. -/
theorem issue_e_stalled {i : Instr} {s : State} (h : (issue i s).e.stalled = true) : s.e.stalled = true := by
  obtain ⟨q, hq, out⟩ := issue_cases i s
  have qe : q.e = s.e := by
    unfold Prepared at hq
    rw [hq]
  rw [← qe]
  obtain ⟨_, out, -⟩ | ⟨-, -, out⟩ | ⟨-, -, out⟩ | ⟨-, out, -⟩ := out
  · rwa [out] at h
  · rwa [out] at h
  · rwa [out] at h
  · simp [out] at h

theorem issueFetchFault_e_stalled {s : State} (h : (issueFetchFault s).e.stalled = true) : s.e.stalled = true := by
  by_contra hs
  simp [issueFetchFault, hs] at h

theorem decodeStage_e_stalled {s t : State} (h : decodeStage s = .next t) (ht : t.e.stalled = true) :
    s.e.stalled = true := by
  obtain ⟨p, rfl, guarded⟩ := decodeStage_cases h
  have pe : (preChecks (s.atTurn .decode)).e = s.e := preChecks_e _
  rw [← pe]
  obtain ⟨-, rfl⟩ | ⟨-, i, -, rfl⟩ | ⟨-, -, rfl⟩ := guarded
  · exact ht
  · exact issue_e_stalled ht
  · exact issueFetchFault_e_stalled ht

theorem decodeStage_x {s t : State} (h : decodeStage s = .next t) : t.x = s.x := by
  obtain ⟨p, rfl, guarded⟩ := decodeStage_cases h
  obtain ⟨-, rfl⟩ | ⟨-, i, -, rfl⟩ | ⟨-, -, rfl⟩ := guarded
  · simp
  · simp
  · simp

end Sys2Proof.Machine
end

section
/-! What one stage alone may do: hold E (42_execute_memory_writeback.md R183, R184), write a register (R206). -/

namespace Sys2Proof.Machine

/-- Settles O25: the two cycles are the paths `run` and `finishMul` of Execute's turn, and every other stage keeps E or
puts a latch into it that is not stalled. -/
theorem mulHoldsExecuteForTwoCycles : Obligations.MulHoldsExecuteForTwoCycles := by
  refine ⟨?rule, ?first, ?second, fun _ _ => ins_eq_mul_of_executeStage_stalls, ?writeback,
    fun _ _ => memoryStage_e_stalled, fun _ _ => decodeStage_e_stalled, ?fetch⟩
  case rule =>
    intro rd rs1 rs2 s ht
    exact exec_atExecute _ ht
  case first =>
    intro rd rs1 rs2 s hi hb hs hd
    have hu : upstreamBlocked s = false := by
      rw [Bool.eq_false_iff, Ne, upstreamBlocked_iff]
      rintro ⟨hds, hr, -⟩
      exact hr (hd hds)
    exact executeStage_eq_run hb hs hu hi
  case second =>
    intro s hs hb
    exact executeStage_eq_finishMul hb hs
  case writeback =>
    intro s t h ht
    rwa [writebackStage_e h] at ht
  case fetch =>
    intro s ht
    rwa [fetchStage_e] at ht

/-- Settles O40: Writeback writes what `retire_reg` says, and each of the other turns keeps the register vector. -/
theorem registerFileWrittenByWritebackOnly : Obligations.RegisterFileWrittenByWritebackOnly := by
  refine ⟨fun _ _ h => writebackStage_reg h, fun _ _ h => ?memory, fun _ _ h => ?execute, fun _ _ h => ?decode,
    fun s => ?fetch⟩
  case memory => exact State.reg_congr (memoryStage_x h)
  case execute => exact State.reg_congr (by rw [executeStage_frame h])
  case decode => exact State.reg_congr (decodeStage_x h)
  case fetch => exact State.reg_congr (fetchStage_x s)

end Sys2Proof.Machine
end

section
/-! Reset (70_reset_and_hazards.md R330) and the first cycle after it: D, E, M and W are busy, so their turns hold, only
Fetch acts, and an empty program is complete (R333). -/

namespace Sys2Proof.Machine

/-! ### The state after reset -/

@[simp] theorem State.resetWith_reg (cfg : Config) (store : List Packed) (init : Memory) (r : Reg) :
    (State.resetWith cfg store init).reg r = 0 :=
  Vector.getElem_replicate r.isLt

@[simp] theorem State.resetWith_isValid (cfg : Config) (store : List Packed) (init : Memory) (r : Reg) :
    (State.resetWith cfg store init).isValid r = true :=
  Vector.getElem_replicate r.isLt

/-- The latches differ in busy alone, which is 0 in F and 1 elsewhere (D29). -/
theorem State.resetWith_latch (cfg : Config) (store : List Packed) (init : Memory) (st : Stage) :
    (State.resetWith cfg store init).latch st = { Latch.empty with busy := decide (st ≠ .fetch) } := by
  cases st <;> rfl

/-- Settles O6: registers and validity bits are constant vectors, the latches are those of `resetWith_latch`, and every
other field stands in `resetWith` as listed. -/
theorem resetLeavesTheseValues : Obligations.ResetLeavesTheseValues := by
  rintro cfg store init _ rfl
  refine ⟨fun r => ⟨State.resetWith_reg cfg store init r, State.resetWith_isValid cfg store init r⟩,
    rfl, rfl, rfl, rfl, rfl, rfl, rfl, rfl, rfl, rfl, rfl, fun st => ?latches⟩
  case latches =>
    rw [State.resetWith_latch]
    exact ⟨rfl, rfl, rfl, rfl, rfl, rfl, rfl, rfl, rfl, rfl, rfl, rfl, decide_eq_true_iff⟩

/-! ### A busy latch holds its stage -/

theorem writebackStage_eq_hold_of_busy {s : State} (h : s.w.busy = true) :
    writebackStage s = .next (s.atTurn .writeback) := by
  rw [writebackStage_eq, if_pos h]

theorem memoryStage_eq_hold_of_busy {s : State} (h : s.m.busy = true) :
    memoryStage s = .next (s.atTurn .memory) :=
  if_pos h

theorem executeStage_eq_hold_of_busy {s : State} (h : s.e.busy = true) : executeStage s = .next s.atExecute := by
  rw [executeStage_eq, if_pos h]

/-- The pre-checks come before the guard, so a busy D holds as it is only where it is not stalled. -/
theorem decodeStage_eq_hold_of_busy {s : State} (h : s.d.busy = true) (hs : s.d.stalled = false) :
    decodeStage s = .next (s.atTurn .decode) := by
  have pre : preChecks (s.atTurn .decode) = s.atTurn .decode := preChecks_of_not_stalled hs
  simp [decodeStage_eq, pre, h]

/-- A cycle in which only Fetch is not held: before it only the turn moves, and the load-use flag is cleared. -/
theorem cycle_eq_fetch_of_busy {s : State} (hd : s.d.busy = true) (hds : s.d.stalled = false) (he : s.e.busy = true)
    (hm : s.m.busy = true) (hw : s.w.busy = true) :
    cycle s = .next (fetchStage (s.atExecute.atTurn .decode)).endCycle :=
  cycle_eq_next.2 ⟨s.atTurn .writeback, s.atTurn .memory, s.atExecute, s.atExecute.atTurn .decode,
    writebackStage_eq_hold_of_busy hw, memoryStage_eq_hold_of_busy hm, executeStage_eq_hold_of_busy he,
    decodeStage_eq_hold_of_busy hd hds, rfl⟩

/-! ### The driver around a cycle -/

theorem budgetSpent_eq_false_iff {s : State} :
    budgetSpent s = false ↔ ∀ l, s.cfg.cycleLimit = some l → s.clock < l := by
  unfold budgetSpent
  cases s.cfg.cycleLimit with
  | none => simp
  | some l => simp

theorem step_eq_checkComplete {s t : State} (hstop : s.stop = none) (hbudget : budgetSpent s = false)
    (h : cycle s = .next t) : step s = .next t.checkComplete := by
  simp [step, advance, hstop, hbudget, h]

theorem State.checkComplete_of_completed {s : State} (h : completed s = true) :
    s.checkComplete = { s with stop := some .complete } :=
  if_pos h

theorem completed_iff {s : State} : completed s = true ↔ sint s.done = (s.store.length : Int) :=
  decide_eq_true_iff

/-! ### The first cycle after reset -/

/-- What the first cycle leaves, for every program: Fetch's turn alone. -/
def State.afterFirstCycle (cfg : Config) (store : List Packed) (init : Memory) : State :=
  (fetchStage ((State.resetWith cfg store init).atExecute.atTurn .decode)).endCycle

theorem step_resetWith (cfg : Config) (store : List Packed) (init : Memory) (hlimit : cfg.cycleLimit ≠ some 0) :
    step (State.resetWith cfg store init) = .next (State.afterFirstCycle cfg store init).checkComplete := by
  have budget : budgetSpent (State.resetWith cfg store init) = false := by
    rw [budgetSpent_eq_false_iff]
    intro l hl
    exact Nat.pos_of_ne_zero fun h0 => hlimit (h0 ▸ hl)
  exact step_eq_checkComplete rfl budget (cycle_eq_fetch_of_busy rfl rfl rfl rfl rfl)

/-- Nothing has retired and nothing is to retire: done = N = 0. -/
theorem completed_afterFirstCycle_nil (cfg : Config) (init : Memory) :
    completed (State.afterFirstCycle cfg [] init) = true := by
  have hdone : (State.afterFirstCycle cfg [] init).done = 0 := fetchStage_done _
  have hstore : (State.afterFirstCycle cfg [] init).store = [] := fetchStage_store _
  rw [completed_iff, hdone, hstore]
  rfl

/-- Settles O7: the step is the first cycle, which moves only the clock and what Fetch writes, and the completion test
after it. -/
theorem emptyProgramCompletesAtClockOne : Obligations.EmptyProgramCompletesAtClockOne := by
  intro cfg init hlimit
  have complete := State.checkComplete_of_completed (completed_afterFirstCycle_nil cfg init)
  refine ⟨_, step_resetWith cfg [] init hlimit, ?clock, by rw [complete], fun r => ?registers, ?memory⟩
  case clock =>
    rw [State.checkComplete_clock]
    exact congrArg (· + 1) (fetchStage_clock _)
  case registers =>
    have hx : (State.afterFirstCycle cfg [] init).checkComplete.x = (State.resetWith cfg [] init).x :=
      (State.checkComplete_x _).trans (fetchStage_x _)
    rw [State.reg_congr hx, State.resetWith_reg]
  case memory => exact (State.checkComplete_dm _).trans (fetchStage_dm _)

end Sys2Proof.Machine
end

section
/-! The packing of R75 and R76 both ways (30_encoding.md): the code of each instruction, the fields the decoder reads,
and the loader's refusal of code 15 (R78). -/

namespace Sys2Proof

open Machine

/-! ### Codes -/

/-- The code of R76, written once as a number. -/
def Instr.code : Instr → Nat
  | .add _ _ _ => 0
  | .sub _ _ _ => 1
  | .mul _ _ _ => 2
  | .and _ _ _ => 3
  | .or _ _ _ => 4
  | .xor _ _ _ => 5
  | .movc _ _ => 6
  | .load _ _ _ => 7
  | .store _ _ _ => 8
  | .bz _ => 9
  | .bnz _ => 10
  | .jump _ _ => 11
  | .halt => 12
  | .nop => 13
  | .empty => 14

theorem opcField_encode (i : Instr) : (opcField (encode i)).toNat = i.code := by
  cases i <;> rw [encode, opcField_pack] <;> rfl

/-- Settles O1: the code of the word picks the arm that made it, and each field is read back where it was packed. -/
theorem decodeOfEncodeIsInstruction : Obligations.DecodeOfEncodeIsInstruction := by
  intro i
  have hcode := opcField_encode i
  unfold decode
  cases i <;> simp only [hcode, Instr.code] <;>
    simp only [encode, rdField_pack, rs1Field_pack, rs2Field_pack, immField_pack]

/-! ### What a decoded word says -/

/-- Everything the decoder says of a word it takes: the code, and each field the instruction uses. -/
structure DecodedFrom (w : Packed) (i : Instr) : Prop where
  code : (opcField w).toNat = i.code
  rd : ∀ r, Machine.Instr.dest i = some r → r = rdField w
  rs1 : ∀ r, (Slot.rs1, r) ∈ Machine.Instr.sources i → r = rs1Field w
  rs2 : ∀ r, (Slot.rs2, r) ∈ Machine.Instr.sources i → r = rs2Field w
  imm : i.toRecord.op.usesImm = true → i.toRecord.imm = sint (immField w)

theorem decodedFrom_of_decode {w : Packed} {i : Instr} (h : decode w = .ok i) : DecodedFrom w i := by
  unfold decode at h
  split at h <;> cases h <;> constructor <;>
    simp_all [Instr.code, Machine.Instr.dest, Machine.Instr.sources, Instr.toRecord, Opcode.usesImm]

theorem decode_eq_error_iff (w : Packed) : decode w = .error .reserved ↔ w.toNat / 2 ^ 60 = 15 := by
  have hlt := (opcField w).isLt
  rw [← opcField_toNat]
  unfold decode
  generalize (opcField w).toNat = code at hlt ⊢
  interval_cases code <;> simp

theorem exists_decode_iff (w : Packed) : (∃ i, decode w = .ok i) ↔ w.toNat / 2 ^ 60 ≠ 15 := by
  rw [Ne, ← decode_eq_error_iff]
  cases decode w with
  | ok i => simp
  | error e => cases e; simp

/-- Settles O2: `exists_decode_iff`, and the fields of `DecodedFrom` as numbers of the word. -/
theorem decoderReadsFieldsAtTheirBits : Obligations.DecoderReadsFieldsAtTheirBits := by
  refine ⟨exists_decode_iff, fun w i h => ?_⟩
  obtain ⟨hcode, hrd, hrs1, hrs2, himm⟩ := decodedFrom_of_decode h
  rw [opcField_toNat] at hcode
  refine ⟨?encoded, ?code, ?rd, ?rs1, ?rs2, ?imm⟩
  case encoded => rw [← opcField_toNat, opcField_encode, hcode]
  case code => rw [hcode]; cases i <;> rfl
  case rd => intro r hr; rw [hrd r hr, rdField_val]
  case rs1 => intro r hr; rw [hrs1 r hr, rs1Field_val]
  case rs2 => intro r hr; rw [hrs2 r hr, rs2Field_val]
  case imm =>
    intro hu
    rw [himm hu, sint, BitVec.ofInt_toInt]
    exact BitVec.eq_of_toNat_eq (by rw [immField_toNat, BitVec.toNat_ofNat])

/-! ### Records -/

theorem fieldReg_some (r : Reg) : fieldReg (some r.val) = r := by
  simp [fieldReg]

/-- A used register field holds the index that the loader reads (R74 (b)). -/
theorem eq_some_fieldReg {field : Option Nat} (h : fieldWf true field = true) :
    field = some (fieldReg field).val := by
  cases field with
  | none => cases h
  | some r =>
    have hr : r < 16 := by simpa [fieldWf] using h
    simp [fieldReg, Nat.mod_eq_of_lt hr]

theorem fieldWf_false_iff {field : Option Nat} : fieldWf false field = true ↔ field = none := by
  cases field <;> simp [fieldWf]

/-- A used immediate is read back from its 32 bits (R74 (c)). -/
theorem sint_ofInt {imm : Int} (h : immWf true imm = true) : sint (BitVec.ofInt 32 imm) = imm := by
  simp only [immWf, Bool.and_eq_true, decide_eq_true_eq] at h
  rw [sint, BitVec.toInt_ofInt]
  exact Int.bmod_eq_of_le (by omega) (by omega)

theorem immWf_false_iff {imm : Int} : immWf false imm = true ↔ imm = 0 := by
  simp only [immWf, Bool.and_eq_true, Bool.false_or, decide_eq_true_eq]
  omega

theorem immWf_sint (v : Word) : immWf true (sint v) = true := by
  have hlo := BitVec.le_toInt v
  have hhi := BitVec.toInt_lt (x := v)
  simp only [immWf, sint, Bool.true_or, Bool.and_true, Bool.and_eq_true]
  exact ⟨decide_eq_true (by omega), decide_eq_true (by omega)⟩

theorem immWf_zero (used : Bool) : immWf used 0 = true := by
  cases used <;> rfl

theorem ofInt_sint (v : Word) : BitVec.ofInt 32 (sint v) = v := BitVec.ofInt_toInt

theorem Instr.toRecord_wf (i : Instr) : i.toRecord.wf = true := by
  cases i <;>
    simp [Instr.toRecord, Record.wf, fieldWf, Opcode.usesRd, Opcode.usesRs1, Opcode.usesRs2, Opcode.usesImm, immWf_sint,
      immWf_zero]

theorem toInstr_toRecord (i : Instr) : i.toRecord.toInstr = some i := by
  rw [Record.toInstr, if_pos i.toRecord_wf]
  cases i <;> simp [Instr.toRecord, fieldReg_some, ofInt_sint]

theorem exists_toInstr_of_wf {r : Record} (h : r.wf = true) : ∃ i, r.toInstr = some i ∧ i.toRecord = r := by
  obtain ⟨op, rd, rs1, rs2, imm⟩ := r
  rw [Record.toInstr, if_pos h]
  simp only [Record.wf, Bool.and_eq_true] at h
  obtain ⟨⟨⟨⟨hop, hrd⟩, hrs1⟩, hrs2⟩, himm⟩ := h
  cases op <;> simp only [Opcode.usesRd, Opcode.usesRs1, Opcode.usesRs2, Opcode.usesImm] at hrd hrs1 hrs2 himm
  case invalid => cases hop
  all_goals
    refine ⟨_, rfl, ?_⟩
    simp_all [Instr.toRecord, fieldWf_false_iff, immWf_false_iff, ← eq_some_fieldReg, sint_ofInt]

/-- Settles O4: the record of an instruction is well formed and read as it (`toInstr_toRecord`), and a well-formed record
is the record of the instruction it is read as (`exists_toInstr_of_wf`). -/
theorem wellFormedRecordsAreInstructions : Obligations.WellFormedRecordsAreInstructions := by
  refine ⟨fun r => ⟨fun h => ?_, ?_⟩, fun r i => ⟨fun h => ?_, ?_⟩⟩
  · obtain ⟨i, -, hi⟩ := exists_toInstr_of_wf h
    exact ⟨i, hi⟩
  · rintro ⟨i, rfl⟩
    exact i.toRecord_wf
  · have hwf : r.wf = true := by
      by_contra hn
      simp [Record.toInstr, hn] at h
    obtain ⟨j, hj, hr⟩ := exists_toInstr_of_wf hwf
    rw [h] at hj
    cases hj
    exact hr
  · rintro rfl
    exact toInstr_toRecord i

/-! ### The loader and the store -/

theorem firstReserved_none {store : List Packed} (h : ∀ w ∈ store, w.toNat / 2 ^ 60 ≠ 15) (n : Nat) :
    firstReserved n store = none := by
  induction store generalizing n with
  | nil => rfl
  | cons w rest ih =>
    obtain ⟨i, hi⟩ := (exists_decode_iff w).2 (h w (by simp))
    rw [firstReserved, hi]
    exact ih (fun u hu => h u (by simp [hu])) (n + 1)

theorem firstReserved_some {store : List Packed} {k : Nat} {w : Packed} (hk : store[k]? = some w)
    (hw : w.toNat / 2 ^ 60 = 15) (hfirst : ∀ j u, j < k → store[j]? = some u → u.toNat / 2 ^ 60 ≠ 15) (n : Nat) :
    firstReserved n store = some (n + k) := by
  induction store generalizing k n with
  | nil => simp at hk
  | cons v rest ih =>
    cases k with
    | zero =>
      obtain rfl : v = w := by simpa using hk
      rw [firstReserved, (decode_eq_error_iff v).2 hw]
      rfl
    | succ k =>
      obtain ⟨i, hi⟩ := (exists_decode_iff v).2 (hfirst 0 v (by omega) rfl)
      have hrest : firstReserved (n + 1) rest = some (n + 1 + k) :=
        ih (by simpa using hk) (fun j u hj hu => hfirst (j + 1) u (by omega) (by simpa using hu)) (n + 1)
      rw [firstReserved, hi]
      simpa [Nat.add_assoc, Nat.add_comm 1] using hrest

/-- Settles O5: the search for a reserved slot finds the first one, or none, and then the loader's bounds hold. -/
theorem loaderRefusesReservedCode : Obligations.LoaderRefusesReservedCode := by
  intro cfg store init
  refine ⟨fun k w hk hw hfirst => ?_, fun hcodes hwords hspace hwf hbelow => ?_⟩
  · rw [load, firstReserved_some hk hw hfirst 0, Nat.zero_add]
  · rw [load, firstReserved_none hcodes 0]
    have hcfg : cfg.wf store.length = true := by
      rw [Config.wf, decide_eq_true hwords, decide_eq_true hspace]
      rfl
    simp [hcfg, hwf, hbelow]

end Sys2Proof

namespace Sys2Proof.Machine

theorem isRead_of_bad {s : State} {a : Word} (h : addressOk s.cfg a = false) : isRead s a = some .fetchFault := by
  simp [isRead, h]

theorem isRead_past_end {s : State} {a : Word} (h : addressOk s.cfg a = true)
    (hend : s.store.length ≤ storeIndex s.cfg a) : isRead s a = some (.instr .empty) := by
  simp [isRead, h, List.getElem?_eq_none hend]

theorem isRead_slot {s : State} {a : Word} {w : Packed} {i : Instr} (h : addressOk s.cfg a = true)
    (hw : s.store[storeIndex s.cfg a]? = some w) (hi : decode w = .ok i) : isRead s a = some (.instr i) := by
  simp only [isRead, h, if_true, hw, hi]

theorem isRead_reserved {s : State} {a : Word} {w : Packed} (h : addressOk s.cfg a = true)
    (hw : s.store[storeIndex s.cfg a]? = some w) (hr : decode w = .error .reserved) : isRead s a = none := by
  simp only [isRead, h, if_true, hw, hr]

theorem addressOk_iff {cfg : Config} {a : Word} :
    addressOk cfg a = true ↔ cfg.base.toNat ≤ a.toNat ∧ (a.toNat - cfg.base.toNat) % 4 = 0 := by
  simp [addressOk]

/-- Settles O12: the address is bad, or past the end, or names a slot, which decodes or holds code 15. -/
theorem storeReadByAddress : Obligations.StoreReadByAddress := by
  intro s a
  refine ⟨fun hlow => isRead_of_bad ?low, fun hbase => ⟨fun hodd => isRead_of_bad ?odd, fun haligned => ?aligned⟩⟩
  case low => rw [Bool.eq_false_iff, Ne, addressOk_iff]; omega
  case odd => rw [Bool.eq_false_iff, Ne, addressOk_iff]; omega
  case aligned =>
    have hok : addressOk s.cfg a = true := addressOk_iff.2 ⟨hbase, haligned⟩
    exact ⟨isRead_past_end hok, fun w hw =>
      ⟨fun i hi => isRead_slot hok hw hi, fun hcode => isRead_reserved hok hw ((decode_eq_error_iff w).2 hcode)⟩⟩

end Sys2Proof.Machine
end

section
/-! The invariant `Legal`, latch by latch: what it asks of F, of D, of E and of M and W, what each stage puts into a
latch, and the five turns one after another. -/

namespace Sys2Proof.Machine

/-! ### What a legal state asks of each latch -/

/-- What `Legal` asks of every latch alike. -/
structure Latch.Sane (l : Latch) : Prop where
  busyEmpty : l.busy = true → l.ins = .instr .empty ∧ l.stalled = false
  noReason : l.stalled = false → l.reason = none
  noRelease : l.released = false
  carriesPc : l.isBranch = true ∨ l.ins = .fetchFault → l.pc.isSome = true

/-- What `Legal` asks of F. -/
structure Latch.FetchLegal (l : Latch) : Prop extends l.Sane where
  free : l.busy = false
  reason : l.stalled = true → l.reason = some .deferral

/-- What `Legal` asks of D. -/
structure Latch.DecodeLegal (l : Latch) : Prop extends l.Sane where
  reason : l.stalled = true → l.reason ≠ none ∧ l.reason ≠ some .deferral

/-- What `Legal` asks of E in forwarding mode `fwd`. -/
structure Latch.ExecuteLegal (fwd : Bool) (l : Latch) : Prop extends l.Sane where
  reason : l.reason = none
  heldByMul : l.stalled = true → ∃ rd rs1 rs2, l.ins = .instr (.mul rd rs1 rs2)
  resolvable : fwd = false → l.isBranch = true → l.resolve = true

/-- What `Legal` asks of M and of W. -/
structure Latch.BackLegal (l : Latch) : Prop extends l.Sane where
  flows : l.stalled = false
  noFault : l.ins ≠ .fetchFault

/-- What `Legal` asks of everything but the turn: what every stage's turn keeps. -/
structure TurnLegal (s : State) : Prop where
  memory : MemoryLegal s
  f : s.f.FetchLegal
  d : s.d.DecodeLegal
  e : s.e.ExecuteLegal s.cfg.fwd
  m : s.m.BackLegal
  w : s.w.BackLegal

theorem legal_iff (s : State) : Legal s ↔ s.turn = .writeback ∧ TurnLegal s := by
  constructor
  · intro h
    have sane (st : Stage) : (s.latch st).Sane :=
      ⟨h.busyEmpty st, fun hs => h.noReason st (.inl hs), h.noRelease st, h.carriesPc st⟩
    exact ⟨h.turn, h.memory, ⟨sane .fetch, h.fetchFree, h.fetchReason⟩, ⟨sane .decode, h.decodeReason⟩,
      ⟨sane .execute, h.noReason .execute (.inr rfl), h.heldByMul, h.resolvable⟩,
      ⟨sane .memory, h.backFlows.1, h.noLateFault.1⟩, ⟨sane .writeback, h.backFlows.2, h.noLateFault.2⟩⟩
  · rintro ⟨turn, memory, f, d, e, m, w⟩
    have sane (st : Stage) : (s.latch st).Sane := by
      cases st
      exacts [f.toSane, d.toSane, e.toSane, m.toSane, w.toSane]
    refine ⟨turn, memory, fun st => (sane st).busyEmpty, f.free, f.reason, d.reason, ?_, fun st => (sane st).noRelease,
      e.heldByMul, ⟨m.flows, w.flows⟩, ⟨m.noFault, w.noFault⟩, e.resolvable, fun st => (sane st).carriesPc⟩
    rintro st (hs | rfl)
    · exact (sane st).noReason hs
    · exact e.reason

/-! ### The latches that the stages make -/

theorem Latch.sane_empty (busy : Bool) : { Latch.empty with busy := busy }.Sane :=
  ⟨fun _ => ⟨rfl, rfl⟩, fun _ => rfl, rfl, fun h => by cases h <;> contradiction⟩

theorem Latch.sane_nop : Latch.nop.Sane :=
  ⟨fun h => (by cases h), fun _ => rfl, rfl, fun h => by cases h <;> contradiction⟩

/-- A bubble that the pipeline makes itself may stand in any latch. -/
theorem Latch.fetchLegal_empty : Latch.empty.FetchLegal := ⟨Latch.sane_empty false, rfl, fun h => by cases h⟩

theorem Latch.decodeLegal_empty (busy : Bool) : { Latch.empty with busy := busy }.DecodeLegal :=
  ⟨Latch.sane_empty busy, fun h => by cases h⟩

theorem Latch.executeLegal_empty (fwd busy : Bool) : { Latch.empty with busy := busy }.ExecuteLegal fwd :=
  ⟨Latch.sane_empty busy, rfl, fun h => (by cases h), fun _ h => by cases h⟩

theorem Latch.backLegal_empty (busy : Bool) : { Latch.empty with busy := busy }.BackLegal :=
  ⟨Latch.sane_empty busy, rfl, by rintro ⟨⟩⟩

theorem Latch.fetchLegal_nop : Latch.nop.FetchLegal := ⟨Latch.sane_nop, rfl, fun h => by cases h⟩

theorem Latch.decodeLegal_nop : Latch.nop.DecodeLegal := ⟨Latch.sane_nop, fun h => by cases h⟩

theorem Latch.executeLegal_nop (fwd : Bool) : Latch.nop.ExecuteLegal fwd :=
  ⟨Latch.sane_nop, rfl, fun h => (by cases h), fun _ h => by cases h⟩

theorem Latch.backLegal_nop : Latch.nop.BackLegal := ⟨Latch.sane_nop, rfl, by rintro ⟨⟩⟩

/-- A copy clears the control bits, so it needs only the pc of its record. -/
theorem Latch.Sane.copy {l : Latch} (h : l.Sane) : l.copy.Sane :=
  ⟨fun hb => (by cases hb), fun _ => rfl, rfl, h.carriesPc⟩

theorem Latch.BackLegal.copy {l : Latch} (h : l.BackLegal) : l.copy.BackLegal := ⟨h.toSane.copy, rfl, h.noFault⟩

/-- A loaded word changes nothing that `Legal` speaks of. -/
theorem Latch.BackLegal.setBuf {l : Latch} (h : l.BackLegal) (v : Word) : { l with buf := v }.BackLegal :=
  ⟨⟨h.busyEmpty, h.noReason, h.noRelease, h.carriesPc⟩, h.flows, h.noFault⟩

/-- Execute copies into M only what is no FETCHFAULT record (R185). -/
theorem Latch.ExecuteLegal.copy_backLegal {l : Latch} {fwd : Bool} (h : l.ExecuteLegal fwd) (hi : l.ins ≠ .fetchFault) :
    l.copy.BackLegal :=
  ⟨h.toSane.copy, rfl, hi⟩

/-- Decode copies into E a latch whose branch, without forwarding, is resolvable. -/
theorem Latch.Sane.copy_executeLegal {l : Latch} {fwd : Bool} (h : l.Sane)
    (hr : fwd = false → l.isBranch = true → l.resolve = true) : l.copy.ExecuteLegal fwd :=
  ⟨h.copy, rfl, fun hs => (by cases hs), hr⟩

theorem Latch.sane_fetched (r : Resident) (a : Word) : (Latch.fetched r a).Sane :=
  ⟨fun h => (by cases h), fun _ => rfl, rfl, fun _ => rfl⟩

/-! ### Each turn keeps a state legal -/

theorem TurnLegal.atTurn {s : State} (h : TurnLegal s) (t : Stage) : TurnLegal (s.atTurn t) :=
  ⟨h.memory, h.f, h.d, h.e, h.m, h.w⟩

/-- Writeback changes no latch and no memory. -/
theorem TurnLegal.writebackStage {s t : State} (h : TurnLegal s) (ht : writebackStage s = .next t) : TurnLegal t := by
  obtain ⟨-, rfl⟩ | ⟨-, i, -, rfl⟩ | ⟨-, -, rfl⟩ := writebackStage_cases ht
  · exact h.atTurn _
  · rw [retire_eq]
    exact ⟨h.memory, h.f, h.d, h.e, h.m, h.w⟩
  · exact ⟨h.memory, h.f, h.d, h.e, h.m, h.w⟩

/-- A pending action is taken where it leaves NOPs in F, D and E. -/
theorem TurnLegal.applyPending {s : State} (h : TurnLegal s) : TurnLegal (applyPending s) := by
  have flushed (t : State) (hf : t.f = .nop) (hd : t.d = .nop) (he : t.e = .nop) (hm : t.m = s.m) (hw : t.w = s.w)
      (hdm : t.dm = s.dm) (hc : t.cfg = s.cfg) : TurnLegal t := by
    refine ⟨by rw [MemoryLegal, hdm, hc]; exact h.memory, hf ▸ Latch.fetchLegal_nop, hd ▸ Latch.decodeLegal_nop,
      he ▸ Latch.executeLegal_nop _, hm ▸ h.m, hw ▸ h.w⟩
  unfold Machine.applyPending
  split
  · exact h
  · exact flushed (applyFlush s) rfl rfl rfl (by simp [applyFlush]) (by simp [applyFlush]) (by simp [applyFlush])
      (by simp [applyFlush])
  · exact flushed (applyJump _ s) rfl rfl rfl (by simp [applyJump]) (by simp [applyJump]) (by simp [applyJump])
      (by simp [applyJump])

theorem TurnLegal.dropStale {s : State} (h : TurnLegal s) (stale : Bool) : TurnLegal (s.dropStale stale) := by
  cases stale
  · exact h
  · exact ⟨h.memory, h.f, h.d, h.e, Latch.backLegal_nop, h.w⟩

theorem TurnLegal.copyToWriteback {s : State} (h : TurnLegal s) : TurnLegal s.copyToWriteback :=
  ⟨h.memory, h.f, h.d, h.e, h.m, h.m.copy⟩

theorem TurnLegal.memoryStage {s t : State} (h : TurnLegal s) (ht : memoryStage s = .next t) : TurnLegal t := by
  obtain ⟨-, rfl⟩ | ⟨-, u, rfl, access⟩ := memoryStage_cases ht
  · exact h.atTurn _
  · have hu : TurnLegal u := by
      obtain ⟨-, rfl⟩ | ⟨-, _, _, _, k, -, -, rfl⟩ | ⟨-, _, _, _, k, -, hk, rfl⟩ | ⟨-, -, -, rfl⟩ := access
      · exact h.atTurn _
      · exact ⟨h.memory, h.f, h.d, h.e, h.m.setBuf _, h.w⟩
      · exact ⟨memoryLegal_setWord _ h.memory hk, h.f, h.d, h.e, h.m, h.w⟩
      · exact h.atTurn _
    exact (hu.applyPending.dropStale _).copyToWriteback

/-- What an opcode rule leaves in E: another result, address or data, and a MUL holds E. -/
theorem run_executeLegal {i : Instr} {s : State} (h : s.e.ExecuteLegal s.cfg.fwd) (hi : s.e.ins = .instr i)
    (hb : s.e.busy = false) : (run i s).e.ExecuteLegal s.cfg.fwd ∧ (run i s).e.ins = .instr i := by
  have result (v : Word) : { s.e with buf := v }.ExecuteLegal s.cfg.fwd :=
    ⟨⟨h.busyEmpty, h.noReason, h.noRelease, h.carriesPc⟩, h.reason, h.heldByMul, h.resolvable⟩
  have access (a v b : Word) : { s.e with addr := a, v1 := v, buf := b }.ExecuteLegal s.cfg.fwd :=
    ⟨⟨h.busyEmpty, h.noReason, h.noRelease, h.carriesPc⟩, h.reason, h.heldByMul, h.resolvable⟩
  have branch (cond : Word → Bool) (imm : Word) : (resolveBranch cond imm s).e = s.e := afterTest_e s
  cases i
  case mul rd rs1 rs2 =>
    exact ⟨⟨⟨fun hbusy => (by simp [run, State.holdExecute, hb] at hbusy), fun hs => (by cases hs), h.noRelease,
      h.carriesPc⟩, h.reason, fun _ => ⟨rd, rs1, rs2, hi⟩, h.resolvable⟩, hi⟩
  case load rd rs1 imm => exact ⟨access _ s.e.v1 _, hi⟩
  case store rs1 rs2 imm => exact ⟨access _ _ s.e.buf, hi⟩
  case bz imm => exact (branch isZero imm).symm ▸ ⟨h, hi⟩
  case bnz imm => exact (branch isNonzero imm).symm ▸ ⟨h, hi⟩
  case jump => exact ⟨h, hi⟩
  case halt => exact ⟨h, hi⟩
  case nop => exact ⟨h, hi⟩
  case empty => exact ⟨h, hi⟩
  all_goals exact ⟨result _, hi⟩

theorem TurnLegal.run {i : Instr} {s : State} (h : TurnLegal s) (hi : s.e.ins = .instr i) (hb : s.e.busy = false) :
    TurnLegal (run i s) := by
  have he := (run_executeLegal h.e hi hb).1
  rw [run_eq] at he ⊢
  by_cases hh : i = .halt
  · subst hh
    exact ⟨h.memory, Latch.fetchLegal_empty, Latch.decodeLegal_empty false, he, h.m, h.w⟩
  · obtain ⟨hf, hd, -⟩ := run_younger hh s
    exact ⟨h.memory, hf.symm ▸ h.f, hd.symm ▸ h.d, he, h.m, h.w⟩

theorem TurnLegal.executeStage {s t : State} (h : TurnLegal s) (ht : executeStage s = .next t) : TurnLegal t := by
  have h' : TurnLegal s.atExecute := ⟨h.memory, h.f, h.d, h.e, h.m, h.w⟩
  obtain ⟨-, rfl⟩ | ⟨hb, hs, rfl⟩ | ⟨-, -, -, rfl⟩ | ⟨hb, -, -, i, hi, rfl⟩ := executeStage_cases ht
  · exact h'
  · obtain ⟨rd, rs1, rs2, hi⟩ := h.e.heldByMul hs
    have he : { s.e with stalled := false }.ExecuteLegal s.cfg.fwd :=
      ⟨⟨fun hbusy => (by simp [hb] at hbusy), fun _ => h.e.reason, h.e.noRelease, h.e.carriesPc⟩, h.e.reason,
        fun hs => (by cases hs), h.e.resolvable⟩
    exact ⟨h.memory, h.f, h.d, he, he.copy_backLegal (by simp [hi]), h.w⟩
  · exact ⟨h.memory, h.f, h.d, Latch.executeLegal_nop _, Latch.backLegal_nop, h.w⟩
  · have hr : TurnLegal (Machine.run i s.atExecute) := h'.run hi hb
    have hins := (run_executeLegal h'.e hi hb).2
    unfold copyUnlessHeld
    split
    · exact hr
    · exact ⟨hr.memory, hr.f, hr.d, hr.e, hr.e.copy_backLegal (by simp [hins]), hr.w⟩

/-- A D that Decode's main logic takes up: it is free, and only a non-forwarding branch is marked released. -/
structure State.DecodeReady (s : State) : Prop where
  free : s.d.busy = false
  flows : s.d.stalled = false
  noReason : s.d.reason = none
  released : s.d.released = true → s.cfg.fwd = false ∧ s.d.isBranch = true
  carriesPc : s.d.isBranch = true ∨ s.d.ins = .fetchFault → s.d.pc.isSome = true

/-- The pre-checks leave a D that still waits as it was, and make any other ready. -/
theorem preChecks_ready {s : State} (h : s.d.DecodeLegal) :
    (((preChecks s).d.busy || (preChecks s).d.stalled) = true ∧ (preChecks s).d = s.d) ∨
    (((preChecks s).d.busy || (preChecks s).d.stalled) = false ∧ (preChecks s).DecodeReady) := by
  obtain ⟨d, hd, hins, hpc, hbusy, same | ⟨hs, hds, hr, hrel⟩⟩ := preChecks_cases s
  · subst same
    rw [hd]
    cases hg : s.d.busy || s.d.stalled with
    | true => exact .inl ⟨rfl, rfl⟩
    | false =>
      obtain ⟨hb, hs⟩ := Bool.or_eq_false_iff.1 hg
      exact .inr ⟨rfl, hb, hs, h.noReason hs, fun hr => (by simp [h.noRelease] at hr), h.carriesPc⟩
  · have hb : d.busy = false := by
      rw [hbusy, Bool.eq_false_iff]
      intro hb
      simp [(h.busyEmpty hb).2] at hs
    have hbr : d.isBranch = s.d.isBranch := by simp only [Latch.isBranch, hins]
    rw [hd]
    refine .inr ⟨by simp [hb, hds], hb, hds, hr, fun hd' => ?_, ?_⟩
    · obtain hrel | ⟨-, hrel⟩ := hrel
      · simp [hrel, h.noRelease] at hd'
      · exact hbr ▸ hrel
    · change d.isBranch = true ∨ d.ins = .fetchFault → d.pc.isSome = true
      rw [hbr, hins, hpc]
      exact h.carriesPc

/-- What Decode's main logic leaves in D: the same record, waiting for one of D's reasons or dispatched. -/
theorem issue_decodeLegal {i : Instr} {s : State} (h : s.DecodeReady) (hi : s.d.ins = .instr i) :
    (issue i s).d.DecodeLegal := by
  have hrel : (issue i s).d.released = false :=
    issue_released fun hr => Latch.isBranch_of_instr hi ▸ h.released hr
  obtain ⟨q, hq, out⟩ := issue_cases i s
  obtain ⟨free, flows, noReason, -, carriesPc⟩ := h
  have stalls (t : State) (ht : issue i s = t) (why : StallReason) (hw : why ≠ .deferral)
      (htd : t.d = { q.d with stalled := true, reason := some why, wait := t.d.wait }) : t.d.DecodeLegal := by
    rw [ht] at hrel
    refine ⟨⟨?busy, ?flows, hrel, ?pc⟩, ?reason⟩ <;> rw [htd]
    case busy => rw [hq]; simp [free]
    case flows => simp
    case pc => rw [hq]; exact carriesPc
    case reason => simpa using hw
  obtain ⟨why, out, hw⟩ | ⟨-, -, out⟩ | ⟨-, -, out⟩ | ⟨-, out, -⟩ := out
  · rw [out]
    exact stalls _ out why (by rintro rfl; simp at hw) rfl
  · rw [out]
    exact stalls _ out .branchWait (by simp) rfl
  · rw [out]
    exact stalls _ out .loadUse (by simp) rfl
  · rw [out] at hrel ⊢
    rw [dispatch_d] at hrel ⊢
    refine ⟨⟨?busy, ?flows, hrel, ?pc⟩, ?reason⟩ <;> rw [hq]
    case busy => simp [free]
    case flows => simp [noReason]
    case pc => exact carriesPc
    case reason => simp [flows]

/-- What Decode's main logic leaves in E: what it held, or D's record, a non-forwarding branch now resolvable. -/
theorem issue_executeLegal {i : Instr} {s : State} (he : s.e.ExecuteLegal s.cfg.fwd) (h : s.DecodeReady)
    (hi : s.d.ins = .instr i) : (issue i s).e.ExecuteLegal s.cfg.fwd := by
  obtain ⟨q, hq, out⟩ := issue_cases i s
  have qe : q.e = s.e := by
    unfold Prepared at hq
    rw [hq]
  obtain ⟨_, out, -⟩ | ⟨-, -, out⟩ | ⟨-, -, out⟩ | ⟨-, out, captured, -⟩ := out
  · rw [out, State.stall_e, qe]
    exact he
  · rw [out, State.waitForFlag_e, qe]
    exact he
  · rw [out]
    exact qe.symm ▸ he
  · rw [out, dispatch_e]
    have qi : q.d.ins = .instr i := by rw [hq]; exact hi
    refine ⟨⟨fun hb => (by cases hb), fun _ => rfl, rfl, ?pc⟩, rfl, fun hs => (by cases hs), fun hf hbr => ?resolve⟩
    case pc =>
      rw [hq]
      exact h.carriesPc
    case resolve =>
      rw [Latch.copy_isBranch, Latch.isBranch_of_instr qi] at hbr
      exact (captured hf hbr).1

/-- A FETCHFAULT record is no branch, so it is not marked released and needs no resolution in E. -/
theorem issueFetchFault_legal {s : State} (he : s.e.ExecuteLegal s.cfg.fwd) (h : s.DecodeReady)
    (hi : s.d.ins = .fetchFault) :
    (issueFetchFault s).d.DecodeLegal ∧ (issueFetchFault s).e.ExecuteLegal s.cfg.fwd := by
  have nobranch : s.d.isBranch = false := by simp only [Latch.isBranch, hi]
  have hrel : s.d.released = false := by
    rw [Bool.eq_false_iff]
    intro hr
    simp [(h.released hr).2] at nobranch
  have hd : s.d.Sane := ⟨fun hb => (by simp [h.free] at hb), fun _ => h.noReason, hrel, h.carriesPc⟩
  unfold issueFetchFault
  split
  · exact ⟨⟨⟨fun hb => (by simp [h.free] at hb), fun hs => (by simp at hs), hrel, h.carriesPc⟩, fun _ => by simp⟩, he⟩
  · exact ⟨⟨hd, fun hs => (by simp [h.flows] at hs)⟩, hd.copy_executeLegal fun _ hb => (by simp [nobranch] at hb)⟩

theorem TurnLegal.decodeStage {s t : State} (h : TurnLegal s) (ht : decodeStage s = .next t) : TurnLegal t := by
  obtain ⟨p, hp, guarded⟩ := decodeStage_cases ht
  have ready := preChecks_ready (s := s.atTurn .decode) h.d
  rw [← hp] at ready
  have pf : p.f = s.f := by simp [hp]
  have pe : p.e = s.e := by simp [hp]
  have pm : p.m = s.m := by simp [hp]
  have pw : p.w = s.w := by simp [hp]
  have pdm : p.dm = s.dm := by simp [hp]
  have pc : p.cfg = s.cfg := by simp [hp]
  have legal (t : State) (hf : t.f = p.f) (hm : t.m = p.m) (hw : t.w = p.w) (hdm : t.dm = p.dm) (hc : t.cfg = p.cfg)
      (hd : t.d.DecodeLegal) (he : t.e.ExecuteLegal p.cfg.fwd) : TurnLegal t := by
    refine ⟨?_, (hf.trans pf).symm ▸ h.f, hd, hc.symm ▸ he, (hm.trans pm).symm ▸ h.m, (hw.trans pw).symm ▸ h.w⟩
    rw [MemoryLegal, hdm, hc, pdm, pc]
    exact h.memory
  have hpe : p.e.ExecuteLegal p.cfg.fwd := by rw [pe, pc]; exact h.e
  obtain ⟨hg, rfl⟩ | ⟨hg, i, hi, rfl⟩ | ⟨hg, hi, rfl⟩ := guarded
  · obtain ⟨-, same⟩ | ⟨hg', -⟩ := ready
    · exact legal t rfl rfl rfl rfl rfl (same ▸ h.d) hpe
    · simp [hg] at hg'
  · obtain ⟨hg', -⟩ | ⟨-, ready⟩ := ready
    · simp [hg] at hg'
    · exact legal _ (issue_f i p) (issue_m i p) (issue_w i p) (issue_dm i p) (issue_cfg i p)
        (issue_decodeLegal ready hi) (issue_executeLegal hpe ready hi)
  · obtain ⟨hg', -⟩ | ⟨-, ready⟩ := ready
    · simp [hg] at hg'
    · obtain ⟨hd, he⟩ := issueFetchFault_legal hpe ready hi
      exact legal _ (issueFetchFault_f p) (issueFetchFault_m p) (issueFetchFault_w p) (issueFetchFault_dm p)
        (issueFetchFault_cfg p) hd he

/-- Fetch fills F, defers it behind a stalled D, or hands a copy of it on to a D that is not stalled. -/
theorem TurnLegal.fetchStage {s : State} (h : TurnLegal s) : TurnLegal (fetchStage s) := by
  have copied {l : Latch} (hl : l.Sane) : l.copy.DecodeLegal := ⟨hl.copy, fun hs => by cases hs⟩
  cases hf : s.f.stalled with
  | true =>
    cases hd : s.d.stalled with
    | true =>
      rw [fetchStage_eq_hold_of_stalled hf (.inr hd)]
      exact h.atTurn _
    | false =>
      rw [fetchStage_eq_catchUp hf (h.f.reason hf) hd]
      have sane : { s.f with stalled := false, reason := none }.Sane :=
        ⟨fun hb => (by simp [h.f.free] at hb), fun _ => rfl, h.f.noRelease, h.f.carriesPc⟩
      exact ⟨h.memory, ⟨sane, h.f.free, fun hs => by cases hs⟩, copied sane, h.e, h.m, h.w⟩
  | false =>
    cases hr : isRead s s.pc with
    | none =>
      rw [fetchStage_eq_hold_of_reserved h.f.free hf hr]
      exact h.atTurn _
    | some r =>
      rw [fetchStage_eq_fetchRecord h.f.free hf hr]
      have fetched : (s.fetchedLatch r).Sane ∧ (s.fetchedLatch r).busy = false ∧ (s.fetchedLatch r).stalled = false := by
        unfold State.fetchedLatch
        split
        · exact ⟨Latch.sane_empty false, rfl, rfl⟩
        · exact ⟨Latch.sane_fetched r s.pc, rfl, rfl⟩
      obtain ⟨sane, free, flows⟩ := fetched
      cases hd : s.d.stalled with
      | true =>
        rw [fetchRecord_of_decode_stalled (s := s.atTurn .fetch) hd]
        have deferred : { s.fetchedLatch r with stalled := true, reason := some .deferral }.FetchLegal :=
          ⟨⟨fun hb => (by simp [free] at hb), fun hs => (by cases hs), sane.noRelease, sane.carriesPc⟩, free,
            fun _ => rfl⟩
        exact ⟨h.memory, deferred, h.d, h.e, h.m, h.w⟩
      | false =>
        rw [fetchRecord_of_decode_free (s := s.atTurn .fetch) hd]
        have hfree : (s.fetchedLatch r).FetchLegal := ⟨sane, free, fun hs => (by simp [flows] at hs)⟩
        have hd' : (s.fetchedLatch r).DecodeLegal := ⟨sane, fun hs => (by simp [flows] at hs)⟩
        exact ⟨h.memory, hfree, hd', h.e, h.m, h.w⟩

/-! ### The cycle, the step and reset -/

theorem TurnLegal.cycle {s t : State} (h : TurnLegal s) (ht : cycle s = .next t) : TurnLegal t := by
  obtain ⟨a, b, c, d, hw, hm, he, hd, rfl⟩ := cycle_eq_next.1 ht
  have hf := ((((h.writebackStage hw).memoryStage hm).executeStage he).decodeStage hd).fetchStage
  exact ⟨hf.memory, hf.f, hf.d, hf.e, hf.m, hf.w⟩

/-- The completion test writes only the stop reason. -/
theorem TurnLegal.checkComplete {s : State} (h : TurnLegal s) : TurnLegal s.checkComplete := by
  unfold State.checkComplete
  split
  · exact ⟨h.memory, h.f, h.d, h.e, h.m, h.w⟩
  · exact h

/-- Settles O56: `Legal` is a condition on each latch and on the memory (`legal_iff`), and each of the five turns keeps
it. -/
theorem stepKeepsLegal : Obligations.StepKeepsLegal := by
  intro s t h hst
  obtain ⟨hturn, legal⟩ := (legal_iff s).1 h
  obtain ⟨-, rfl⟩ | ⟨-, -, rfl⟩ | ⟨-, -, u, hu, rfl⟩ := step_cases hst
  · exact h
  · exact (legal_iff _).2 ⟨hturn, legal.memory, legal.f, legal.d, legal.e, legal.m, legal.w⟩
  · obtain ⟨_, _, _, _, -, -, -, -, hturn⟩ := cycle_eq_next.1 hu
    exact (legal_iff _).2 ⟨by rw [State.checkComplete_turn, hturn]; rfl, (legal.cycle hu).checkComplete⟩

/-- Settles O55: every latch holds EMPTY, busy but for F. -/
theorem resetIsLegal : Obligations.ResetIsLegal := by
  intro cfg store init hwf hbelow
  exact (legal_iff _).2 ⟨rfl, ⟨hwf, hbelow⟩, Latch.fetchLegal_empty, Latch.decodeLegal_empty true,
    Latch.executeLegal_empty cfg.fwd true, Latch.backLegal_empty true, Latch.backLegal_empty true⟩

end Sys2Proof.Machine
end

section
/-! Forwarding (41_decode_hazards.md R155, R157): what the search finds, the run of forwarded sources at the front of the
list, and Decode's main logic where every source is resolved. -/

namespace Sys2Proof.Machine

/-! ### The search for a producer -/

theorem searchOrder_of_skips {i : Instr} {slot : Slot} (h : SkipsExecute i slot) :
    searchOrder i slot = [.memory, .writeback] := by
  obtain ⟨rfl, a, b, imm, rfl, hab⟩ := h
  simp [searchOrder, hab]

theorem searchOrder_of_not_skips {i : Instr} {slot : Slot} (h : ¬SkipsExecute i slot) :
    searchOrder i slot = [.execute, .memory, .writeback] := by
  unfold searchOrder
  split
  · next a b imm =>
    have hn : ¬(slot = .rs1 ∧ a ≠ b) := fun ⟨hs, hab⟩ => h ⟨hs, a, b, imm, rfl, hab⟩
    rw [if_neg hn]
  · rfl

section Search
variable {i : Instr} {s : State} {slot : Slot} {r : Reg}

/-- The first hit is E, where the search looks there, then M, then W. -/
theorem findProducer_of_hitsExecute (h : HitsExecute i s slot r) :
    findProducer s (searchOrder i slot) r = some .execute := by
  obtain ⟨hd, hs⟩ := h
  simp [searchOrder_of_not_skips hs, findProducer, State.latch, Latch.produces, hd]

theorem findProducer_of_not_hitsExecute (h : ¬HitsExecute i s slot r) :
    findProducer s (searchOrder i slot) r =
      if s.m.dest = some r then some .memory else if s.w.dest = some r then some .writeback else none := by
  have later : findProducer s [.memory, .writeback] r =
      if s.m.dest = some r then some .memory else if s.w.dest = some r then some .writeback else none := by
    by_cases hm : s.m.dest = some r <;> by_cases hw : s.w.dest = some r <;>
      simp [findProducer, State.latch, Latch.produces, hm, hw]
  rw [← later]
  by_cases hs : SkipsExecute i slot
  · rw [searchOrder_of_skips hs]
  · have hd : s.e.dest ≠ some r := fun hd => h ⟨hd, hs⟩
    simp [searchOrder_of_not_skips hs, findProducer, State.latch, Latch.produces, hd]

end Search

/-- The value that the search gives a source: the buffer of the first hit. -/
def forwardedValue (i : Instr) (s : State) (slot : Slot) (r : Reg) : Word :=
  match findProducer s (searchOrder i slot) r with
  | some st => (s.latch st).buf
  | none => 0

section Value
variable {i : Instr} {s : State} {slot : Slot} {r : Reg}

theorem forwardedValue_of_hitsExecute (h : HitsExecute i s slot r) : forwardedValue i s slot r = s.e.buf := by
  simp only [forwardedValue, findProducer_of_hitsExecute h, State.latch]

theorem forwardedValue_of_not_hitsExecute (h : ¬HitsExecute i s slot r) :
    forwardedValue i s slot r =
      if s.m.dest = some r then s.m.buf else if s.w.dest = some r then s.w.buf else 0 := by
  unfold forwardedValue
  rw [findProducer_of_not_hitsExecute h]
  by_cases hm : s.m.dest = some r <;> by_cases hw : s.w.dest = some r <;> simp [hm, hw, State.latch]

end Value

/-! ### States that differ in D's operand values -/

/-- `q` is `s` with only D's operand values changed. -/
def OperandsOnly (s q : State) : Prop := q = { s with d := { s.d with v1 := q.d.v1, v2 := q.d.v2 } }

theorem operandsOnly_refl (s : State) : OperandsOnly s s := rfl

theorem OperandsOnly.trans {s q p : State} (h : OperandsOnly s q) (k : OperandsOnly q p) : OperandsOnly s p := by
  unfold OperandsOnly at h k ⊢
  rw [k, h]

theorem operandsOnly_setOperand (s : State) (slot : Slot) (v : Word) : OperandsOnly s (s.setOperand slot v) := by
  cases slot <;> rfl

theorem operandsOnly_readOperands (i : Instr) (s : State) : OperandsOnly s (readOperands i s) := readOperands_eq i s

namespace OperandsOnly
variable {s q : State} (h : OperandsOnly s q)
include h

theorem e : q.e = s.e := by rw [h]
theorem m : q.m = s.m := by rw [h]
theorem w : q.w = s.w := by rw [h]
theorem cfg : q.cfg = s.cfg := by rw [h]
theorem lu : q.lu = s.lu := by rw [h]
theorem valid : q.valid = s.valid := by rw [h]
theorem prevRd : q.prevRd = s.prevRd := by rw [h]
theorem d : q.d = { s.d with v1 := q.d.v1, v2 := q.d.v2 } := congrArg State.d h

theorem hitsExecute_iff {i : Instr} {slot : Slot} {r : Reg} : HitsExecute i q slot r ↔ HitsExecute i s slot r := by
  rw [HitsExecute, h.e, HitsExecute]

theorem hitsLater_iff {r : Reg} : HitsLater q r ↔ HitsLater s r := by
  rw [HitsLater, h.m, h.w, HitsLater]

theorem forwards_iff {i : Instr} {slot : Slot} {r : Reg} : Forwards i q slot r ↔ Forwards i s slot r := by
  rw [Forwards, h.hitsExecute_iff, h.hitsLater_iff, h.e, Forwards]

theorem forwardedValue (i : Instr) (slot : Slot) (r : Reg) :
    forwardedValue i q slot r = Machine.forwardedValue i s slot r := by
  by_cases hit : HitsExecute i s slot r
  · rw [forwardedValue_of_hitsExecute hit, forwardedValue_of_hitsExecute (h.hitsExecute_iff.2 hit), h.e]
  · rw [forwardedValue_of_not_hitsExecute hit, forwardedValue_of_not_hitsExecute (mt h.hitsExecute_iff.1 hit), h.m, h.w]

end OperandsOnly

theorem State.operand_setOperand_same (s : State) (slot : Slot) (v : Word) : (s.setOperand slot v).d.operand slot = v := by
  cases slot <;> rfl

theorem State.operand_setOperand_ne (s : State) {slot slot' : Slot} (v : Word) (h : slot' ≠ slot) :
    (s.setOperand slot v).d.operand slot' = s.d.operand slot' := by
  cases slot <;> cases slot'
  case rs1.rs1 => exact absurd rfl h
  case rs2.rs2 => exact absurd rfl h
  all_goals rfl

/-! ### Forwarding the sources of a list -/

/-- The operand values after the sources of `l` have been forwarded. -/
def forwardOperands (i : Instr) : List (Slot × Reg) → State → State
  | [], s => s
  | (slot, r) :: rest, s => forwardOperands i rest (s.setOperand slot (forwardedValue i s slot r))

theorem operandsOnly_forwardOperands (i : Instr) (l : List (Slot × Reg)) (s : State) :
    OperandsOnly s (forwardOperands i l s) := by
  induction l generalizing s with
  | nil => exact operandsOnly_refl s
  | cons p rest ih => exact (operandsOnly_setOperand s p.1 _).trans (ih _)

theorem forwardOperands_operand_ne {i : Instr} {l : List (Slot × Reg)} {slot : Slot} (h : slot ∉ l.map Prod.fst)
    (s : State) : (forwardOperands i l s).d.operand slot = s.d.operand slot := by
  induction l generalizing s with
  | nil => rfl
  | cons p rest ih =>
    simp only [List.map_cons, List.mem_cons, not_or] at h
    exact (ih h.2 _).trans (State.operand_setOperand_ne s _ h.1)

theorem forwardOperands_operand {i : Instr} {l : List (Slot × Reg)} {slot : Slot} {r : Reg}
    (hl : (l.map Prod.fst).Nodup) (h : (slot, r) ∈ l) (s : State) :
    (forwardOperands i l s).d.operand slot = forwardedValue i s slot r := by
  induction l generalizing s with
  | nil => cases h
  | cons p rest ih =>
    obtain ⟨hp, hrest⟩ := List.nodup_cons.1 hl
    obtain rfl | hmem := List.mem_cons.1 h
    · exact (forwardOperands_operand_ne hp _).trans (State.operand_setOperand_same s slot _)
    · exact (ih hrest hmem _).trans ((operandsOnly_setOperand s p.1 _).forwardedValue i slot r)

section ForwardAll
variable {i : Instr} {s : State} {slot : Slot} {r : Reg} {rest : List (Slot × Reg)}

theorem forwardAll_cons_of_forwards (h : Forwards i s slot r) :
    forwardAll i ((slot, r) :: rest) s = forwardAll i rest (s.setOperand slot (forwardedValue i s slot r)) := by
  obtain ⟨he, hload⟩ | ⟨he, hl⟩ := h
  · simp [forwardAll, forwardedValue, findProducer_of_hitsExecute he, hload]
  · simp only [forwardAll, forwardedValue, findProducer_of_not_hitsExecute he]
    by_cases hm : s.m.dest = some r
    · simp [hm]
    · have hw : s.w.dest = some r := hl.resolve_left hm
      simp [hm, hw]

theorem forwardAll_cons_of_load (he : HitsExecute i s slot r) (hload : s.e.isLoad = true) :
    forwardAll i ((slot, r) :: rest) s = { s.stall .loadUse with lu := true } := by
  simp [forwardAll, findProducer_of_hitsExecute he, hload]

theorem forwardAll_cons_of_none (he : ¬HitsExecute i s slot r) (hl : ¬HitsLater s r) :
    forwardAll i ((slot, r) :: rest) s = s.stall .operand := by
  obtain ⟨hm, hw⟩ := not_or.1 hl
  simp [forwardAll, findProducer_of_not_hitsExecute he, hm, hw]

end ForwardAll

/-- The forwarded sources at the front of a list get their values, and the rest of the list is taken from there. -/
theorem forwardAll_append {i : Instr} {before after : List (Slot × Reg)} {s : State}
    (h : ∀ p ∈ before, Forwards i s p.1 p.2) :
    forwardAll i (before ++ after) s = forwardAll i after (forwardOperands i before s) := by
  induction before generalizing s with
  | nil => rfl
  | cons p rest ih =>
    rw [List.cons_append, forwardAll_cons_of_forwards (h p List.mem_cons_self)]
    exact ih fun q hq => (operandsOnly_setOperand s p.1 _).forwards_iff.2 (h q (List.mem_cons_of_mem p hq))

theorem forwardAll_of_forwards {i : Instr} {l : List (Slot × Reg)} {s : State} (h : ∀ p ∈ l, Forwards i s p.1 p.2) :
    forwardAll i l s = dispatchOrDefer i (forwardOperands i l s) := by
  have := forwardAll_append (after := []) h
  rwa [List.append_nil] at this

/-- A source that is not forwarded stalls D, so where D ends free every source was forwarded. -/
theorem forwards_of_forwardAll_flows {i : Instr} {l : List (Slot × Reg)} {s : State}
    (h : (forwardAll i l s).d.stalled = false) : ∀ p ∈ l, Forwards i s p.1 p.2 := by
  induction l generalizing s with
  | nil => simp
  | cons p rest ih =>
    obtain ⟨slot, r⟩ := p
    have hp : Forwards i s slot r := by
      by_contra hn
      obtain ⟨hload, hlater⟩ := not_or.1 hn
      by_cases he : HitsExecute i s slot r
      · rw [forwardAll_cons_of_load he (by simpa [he] using hload)] at h
        simp at h
      · rw [forwardAll_cons_of_none he fun hl => hlater ⟨he, hl⟩] at h
        simp at h
    rw [forwardAll_cons_of_forwards hp] at h
    exact List.forall_mem_cons.2 ⟨hp, fun q hq => (operandsOnly_setOperand s slot _).forwards_iff.1 (ih h q hq)⟩

/-! ### The sources of an instruction -/

theorem Instr.sources_slots_nodup (i : Instr) : ((Instr.sources i).map Prod.fst).Nodup := by
  cases i <;> simp [Instr.sources]

theorem invalidSources_slots_nodup (i : Instr) (s : State) : ((invalidSources i s).map Prod.fst).Nodup :=
  (Instr.sources_slots_nodup i).sublist (List.filter_sublist.map _)

theorem mem_invalidSources {i : Instr} {s : State} {slot : Slot} {r : Reg} :
    (slot, r) ∈ invalidSources i s ↔ (slot, r) ∈ Instr.sources i ∧ s.isValid r = false := by
  simp [invalidSources]

/-- Each slot names one register. -/
theorem Instr.source_unique {i : Instr} {slot : Slot} {r q : Reg} (hr : (slot, r) ∈ Instr.sources i)
    (hq : (slot, q) ∈ Instr.sources i) : r = q := by
  have := List.inj_on_of_nodup_map (Instr.sources_slots_nodup i) hr hq rfl
  exact congrArg Prod.snd this

theorem readOperands_operand {i : Instr} {slot : Slot} {r : Reg} (s : State) (h : (slot, r) ∈ Instr.sources i) :
    (readOperands i s).d.operand slot = s.reg r := by
  cases slot
  · exact readOperands_v1 s h
  · exact readOperands_v2 s h

theorem Instr.sources_of_isBranch {i : Instr} (h : Instr.isBranch i = true) : Instr.sources i = [] := by
  cases i
  case bz => rfl
  case bnz => rfl
  all_goals cases h

/-! ### Decode's main logic where every source is resolved -/

/-- Every source of `i` is valid, or in forwarding mode the search gives it a value. -/
def Resolved (i : Instr) (s : State) : Prop :=
  ∀ p ∈ Instr.sources i, s.isValid p.2 = true ∨ (s.cfg.fwd = true ∧ Forwards i s p.1 p.2)

/-- The state whose D holds every operand of `i`: the valid ones from the registers, the others forwarded. -/
def resolveOperands (i : Instr) (s : State) : State := forwardOperands i (invalidSources i s) (readOperands i s)

theorem operandsOnly_resolveOperands (i : Instr) (s : State) : OperandsOnly s (resolveOperands i s) :=
  (operandsOnly_readOperands i s).trans (operandsOnly_forwardOperands i _ _)

theorem resolveOperands_operand_of_valid {i : Instr} {s : State} {slot : Slot} {r : Reg}
    (h : (slot, r) ∈ Instr.sources i) (hv : s.isValid r = true) :
    (resolveOperands i s).d.operand slot = s.reg r := by
  refine (forwardOperands_operand_ne ?_ _).trans (readOperands_operand s h)
  rw [List.mem_map]
  rintro ⟨⟨slot', q⟩, hq, rfl⟩
  obtain ⟨hq, hqv⟩ := mem_invalidSources.1 hq
  rw [Instr.source_unique hq h, hv] at hqv
  cases hqv

theorem resolveOperands_operand_of_invalid {i : Instr} {s : State} {slot : Slot} {r : Reg}
    (h : (slot, r) ∈ Instr.sources i) (hv : s.isValid r = false) :
    (resolveOperands i s).d.operand slot = forwardedValue i s slot r :=
  (forwardOperands_operand (invalidSources_slots_nodup i s) (mem_invalidSources.2 ⟨h, hv⟩) _).trans
    ((operandsOnly_readOperands i s).forwardedValue i slot r)

theorem issue_of_forwarding {i : Instr} {s : State} (hf : s.cfg.fwd = true) :
    issue i s = forwardAll i (invalidSources i s) (readOperands i s) := by
  simp [issue, hf]

theorem issue_of_resolved {i : Instr} {s : State} (h : Resolved i s)
    (hb : s.cfg.fwd = true ∨ Instr.isBranch i = false) : issue i s = dispatchOrDefer i (resolveOperands i s) := by
  by_cases hf : s.cfg.fwd = true
  · rw [issue_of_forwarding hf]
    refine forwardAll_of_forwards fun p hp => (operandsOnly_readOperands i s).forwards_iff.2 ?_
    obtain ⟨hp, hv⟩ := mem_invalidSources.1 hp
    exact ((h p hp).resolve_left (by simp [hv])).2
  · have valid : ∀ p ∈ Instr.sources i, s.isValid p.2 = true := fun p hp => (h p hp).resolve_right fun hp => hf hp.1
    have hb := hb.resolve_left hf
    simp [issue, resolveOperands, invalidSources_nil valid, hf, hb, forwardAll, forwardOperands]

theorem Resolved.of_valid {i : Instr} {s : State} (h : ∀ p ∈ Instr.sources i, s.isValid p.2 = true) : Resolved i s :=
  fun p hp => .inl (h p hp)

theorem dispatchOrDefer_of_held {s : State} (i : Instr) (h : s.e.stalled = true) :
    dispatchOrDefer i s = s.stall .downstream := by
  simp [dispatchOrDefer, h]

theorem dispatchOrDefer_of_free {s : State} (i : Instr) (h : s.e.stalled = false) :
    dispatchOrDefer i s = dispatch i s := by
  simp [dispatchOrDefer, h]

theorem issue_of_resolved_free {i : Instr} {s : State} (h : Resolved i s)
    (hb : s.cfg.fwd = true ∨ Instr.isBranch i = false) (he : s.e.stalled = false) :
    issue i s = dispatch i (resolveOperands i s) := by
  rw [issue_of_resolved h hb, dispatchOrDefer_of_free i]
  rw [(operandsOnly_resolveOperands i s).e]
  exact he

/-! ### What a dispatch does -/

/-- A dispatch claims the destination, sets prev_rd and fills E, and nothing else. -/
theorem dispatch_eq (i : Instr) (s : State) :
    dispatch i s =
      { s with valid := (dispatch i s).valid, prevRd := (dispatch i s).prevRd, e := s.d.copy } := by
  unfold dispatch State.setValidOpt
  cases Instr.dest i <;> rfl

theorem dispatch_isValid (i : Instr) (s : State) (r : Reg) :
    (dispatch i s).isValid r = (s.isValid r && decide (Instr.dest i ≠ some r)) := by
  have hv : (dispatch i s).valid = (s.setValidOpt (Instr.dest i) false).valid := rfl
  rw [State.isValid_congr hv, State.isValid_setValidOpt]
  by_cases h : Instr.dest i = some r <;> simp [h]

theorem dispatch_prevRd (i : Instr) (s : State) :
    (dispatch i s).prevRd = match i with
      | .add rd _ _ => some rd
      | .sub rd _ _ => some rd
      | .mul rd _ _ => some rd
      | _ => s.prevRd := by
  cases i <;> rfl

end Sys2Proof.Machine
end

section
/-! Decode's statements (41_decode_hazards.md R150 to R163), from the shape of its main logic: what it forwards, and
whether it stalls or dispatches. -/

namespace Sys2Proof.Machine

/-- A stall after forwarding keeps all but D's operand values, D's stall and its reason. -/
theorem OperandsOnly.stall {s q : State} (h : OperandsOnly s q) (why : StallReason) :
    q.stall why = { s with d := { s.d with
      v1 := (q.stall why).d.v1
      v2 := (q.stall why).d.v2
      stalled := true
      reason := some why } } := by
  rw [h]
  rfl

/-- A dispatch after forwarding, field by field. -/
theorem OperandsOnly.dispatch {s q : State} (h : OperandsOnly s q) (i : Instr) :
    (dispatch i q).e = (dispatch i q).d.copy ∧
    (dispatch i q).d = { s.d with v1 := (dispatch i q).d.v1, v2 := (dispatch i q).d.v2 } ∧
    (∀ r, (dispatch i q).isValid r = (s.isValid r && decide (Instr.dest i ≠ some r))) ∧
    (dispatch i q).prevRd = (match i with
      | .add rd _ _ => some rd
      | .sub rd _ _ => some rd
      | .mul rd _ _ => some rd
      | _ => s.prevRd) ∧
    dispatch i q = { s with
      d := (dispatch i q).d
      e := (dispatch i q).e
      valid := (dispatch i q).valid
      prevRd := (dispatch i q).prevRd } := by
  refine ⟨by simp, ?d, fun r => ?valid, ?prevRd, ?rest⟩
  case d => simpa using h.d
  case valid => rw [dispatch_isValid, State.isValid_congr h.valid]
  case prevRd => rw [dispatch_prevRd, h.prevRd]
  case rest =>
    rw [dispatch_eq]
    rw [h]

/-- The turn of a D that the pre-checks leave free. -/
theorem decodeStage_eq_issue {s p : State} {i : Instr} (hp : preChecks (s.atTurn .decode) = p) (hb : p.d.busy = false)
    (hs : p.d.stalled = false) (hi : p.d.ins = .instr i) : decodeStage s = .next (issue i p) := by
  simp [decodeStage_eq, hp, hb, hs, hi]

theorem preChecks_d_ins (s : State) : (preChecks s).d.ins = s.d.ins := by
  obtain ⟨d, hd, hins, -⟩ := preChecks_cases s
  rw [hd]
  exact hins

/-- Settles O16: an outcome of the main logic is a stall, which claims nothing, or a dispatch, which clears the
destination's bit. -/
theorem claimOnlyAtDispatch : Obligations.ClaimOnlyAtDispatch := by
  intro s t h
  obtain ⟨p, hp, guarded⟩ := decodeStage_cases h
  have pv (r : Reg) : p.isValid r = s.isValid r := State.isValid_congr (by simp [hp]) r
  have pd : p.d.dest = s.d.dest := by simp only [hp, Latch.dest, preChecks_d_ins, State.atTurn_d]
  have unclaimed {t : State} (ht : ∀ r, t.isValid r = p.isValid r) :
      (t.d.stalled = true → ∀ r, t.isValid r = s.isValid r) ∧
      (∀ r, t.isValid r ≠ s.isValid r → s.d.dest = some r ∧ t.isValid r = false ∧ t.e = t.d.copy) :=
    ⟨fun _ r => (ht r).trans (pv r), fun r hr => absurd ((ht r).trans (pv r)) hr⟩
  obtain ⟨-, rfl⟩ | ⟨hg, i, hi, rfl⟩ | ⟨-, -, rfl⟩ := guarded
  · exact unclaimed fun _ => rfl
  · obtain ⟨q, hq, out⟩ := issue_cases i p
    have qv (r : Reg) : q.isValid r = p.isValid r := State.isValid_congr (by rw [hq]) r
    obtain ⟨_, out, -⟩ | ⟨-, -, out⟩ | ⟨-, -, out⟩ | ⟨-, out, -⟩ := out
    · exact out ▸ unclaimed qv
    · exact out ▸ unclaimed qv
    · exact out ▸ unclaimed qv
    · have flows : q.d.stalled = false := by
        rw [hq]
        exact (Bool.or_eq_false_iff.1 hg).2
      rw [out]
      refine ⟨fun hs => by simp [flows] at hs, fun r hr => ?_⟩
      rw [dispatch_isValid, qv, pv] at hr ⊢
      have hd : Instr.dest i = some r := by
        by_contra hn
        simp [hn] at hr
      exact ⟨by rw [← pd, Latch.dest_of_instr hi, hd], by simp [hd], by simp⟩
  · exact unclaimed (State.isValid_congr (issueFetchFault_valid p))

/-- Settles O17: the operand stall comes before anything else without forwarding, the cases of the main logic behind a
held E are stalls, and with every source resolved `dispatchOrDefer` defers. -/
theorem decodeStallsWithoutDispatch : Obligations.DecodeStallsWithoutDispatch := by
  refine ⟨?operand, ?held, ?downstream⟩
  case operand =>
    intro i s slot r ht hf hmem hv
    have inv := invalidSources_ne_nil hmem hv
    rw [exec_atDecode i ht]
    simp [issue, hf, inv, State.stall]
  case held =>
    intro i s t ht he h
    rw [exec_atDecode i ht, Host.Outcome.next.injEq] at h
    subst h
    obtain ⟨q, hq, out⟩ := issue_cases i s
    have kept : q.e = s.e ∧ q.valid = s.valid ∧ q.prevRd = s.prevRd := by
      unfold Prepared at hq
      rw [hq]
      exact ⟨rfl, rfl, rfl⟩
    obtain ⟨_, out, -⟩ | ⟨-, -, out⟩ | ⟨-, -, out⟩ | ⟨hfree, -⟩ := out
    · exact out ▸ ⟨rfl, kept⟩
    · exact out ▸ ⟨rfl, kept⟩
    · exact out ▸ ⟨rfl, kept⟩
    · simp [he] at hfree
  case downstream =>
    intro i s ht he h hb
    have ops := operandsOnly_resolveOperands i s
    refine ⟨_, exec_atDecode i ht, ?_⟩
    rw [issue_of_resolved h hb, dispatchOrDefer_of_held i (ops.e ▸ he)]
    exact ⟨rfl, ops.stall .downstream⟩

/-- Settles O18: valid sources are resolved from the registers, and the dispatch is `OperandsOnly.dispatch`. -/
theorem dispatchReadsClaimsAndCopies : Obligations.DispatchReadsClaimsAndCopies := by
  intro i s ht he _ hv hb
  have hi := issue_of_resolved_free (.of_valid hv) hb he
  refine ⟨_, (exec_atDecode i ht).trans (congrArg _ hi), fun r hr => ?rs1, fun r hr => ?rs2,
    (operandsOnly_resolveOperands i s).dispatch i⟩
  case rs1 =>
    rw [dispatch_e]
    exact resolveOperands_operand_of_valid hr (hv _ hr)
  case rs2 =>
    rw [dispatch_e]
    exact resolveOperands_operand_of_valid hr (hv _ hr)

/-- Settles O19: a turn that leaves D free forwarded every invalid source, and the value is the search's first hit. -/
theorem forwardedValueComesFromYoungestProducer : Obligations.ForwardedValueComesFromYoungestProducer := by
  intro i s t slot r ht hf hmem hv _ h hflows
  rw [exec_atDecode i ht, Host.Outcome.next.injEq] at h
  subst h
  have ops := operandsOnly_readOperands i s
  have forwards : ∀ p ∈ invalidSources i s, Forwards i s p.1 p.2 := by
    rw [issue_of_forwarding hf] at hflows
    exact fun p hp => ops.forwards_iff.1 (forwards_of_forwardAll_flows hflows p hp)
  have resolved : Resolved i s := by
    intro p hp
    cases hpv : s.isValid p.2 with
    | true => exact .inl rfl
    | false => exact .inr ⟨hf, forwards p (mem_invalidSources.2 ⟨hp, hpv⟩)⟩
  have he : s.e.stalled = false := by
    rw [Bool.eq_false_iff]
    intro he
    rw [issue_of_resolved resolved (.inl hf),
      dispatchOrDefer_of_held i ((operandsOnly_resolveOperands i s).e ▸ he)] at hflows
    simp at hflows
  have value : (issue i s).e.operand slot = forwardedValue i s slot r := by
    rw [issue_of_resolved_free resolved (.inl hf) he, dispatch_e]
    exact resolveOperands_operand_of_invalid hmem hv
  have hforward := forwards (slot, r) (mem_invalidSources.2 ⟨hmem, hv⟩)
  rw [value]
  refine ⟨fun hd hs => ?execute, fun hn hm => ?memory, fun hn hm => ?writeback⟩
  case execute =>
    have hit : HitsExecute i s slot r := ⟨hd, hs⟩
    obtain ⟨-, hload⟩ | ⟨hmiss, -⟩ := hforward
    · exact ⟨hload, forwardedValue_of_hitsExecute hit⟩
    · exact absurd hit hmiss
  case memory =>
    have miss : ¬HitsExecute i s slot r := fun ⟨hd, hs⟩ => hn.elim (fun hn => hn hd) hs
    rw [forwardedValue_of_not_hitsExecute miss, if_pos hm]
  case writeback =>
    have miss : ¬HitsExecute i s slot r := fun ⟨hd, hs⟩ => hn.elim (fun hn => hn hd) hs
    have later : HitsLater s r := (hforward.resolve_left fun hit => miss hit.1).2
    have hw := later.resolve_left hm
    rw [forwardedValue_of_not_hitsExecute miss, if_neg hm, if_pos hw]
    exact ⟨hw, rfl⟩

/-- Up to the first source that is not forwarded, the main logic only moves operand values. -/
theorem issue_of_forwards_before {i : Instr} {s : State} {before after : List (Slot × Reg)} (hf : s.cfg.fwd = true)
    (hinv : (Instr.sources i).filter (fun p => !s.isValid p.2) = before ++ after)
    (hbefore : ∀ p ∈ before, Forwards i s p.1 p.2) :
    ∃ q, OperandsOnly s q ∧ issue i s = forwardAll i after q := by
  have ops := operandsOnly_readOperands i s
  refine ⟨_, ops.trans (operandsOnly_forwardOperands i before _), ?_⟩
  rw [issue_of_forwarding hf, invalidSources, hinv,
    forwardAll_append fun p hp => ops.forwards_iff.2 (hbefore p hp)]

/-- Settles O20: the first source that is not forwarded matches the LOAD in E. -/
theorem loadInExecuteCausesLoadUseStall : Obligations.LoadInExecuteCausesLoadUseStall := by
  intro i s before after slot r ht hf hinv hbefore hit hload
  obtain ⟨q, ops, hq⟩ := issue_of_forwards_before hf hinv hbefore
  refine ⟨_, exec_atDecode i ht, ?_⟩
  rw [hq, forwardAll_cons_of_load (ops.hitsExecute_iff.2 hit) (ops.e ▸ hload), ops.stall .loadUse]

/-- Settles O60: the first source that is not forwarded has no producer, or there is none such and the turn
dispatches. -/
theorem forwardingStallsOrDispatches : Obligations.ForwardingStallsOrDispatches := by
  refine ⟨?stall, ?dispatch⟩
  case stall =>
    intro i s before after slot r ht hf hinv hbefore hmiss hlater
    obtain ⟨q, ops, hq⟩ := issue_of_forwards_before hf hinv hbefore
    refine ⟨_, exec_atDecode i ht, ?_⟩
    rw [hq, forwardAll_cons_of_none (fun hit => hmiss (ops.hitsExecute_iff.1 hit))
      (fun hl => hlater (ops.hitsLater_iff.1 hl)), ops.stall .operand]
  case dispatch =>
    intro i s ht hf he h
    have resolved : Resolved i s := fun p hp => (h p hp).imp_right fun hp => ⟨hf, hp⟩
    have hi := issue_of_resolved_free resolved (.inl hf) he
    refine ⟨_, (exec_atDecode i ht).trans (congrArg _ hi), fun p hp hv => ?_,
      (operandsOnly_resolveOperands i s).dispatch i⟩
    rw [dispatch_e]
    exact resolveOperands_operand_of_valid hp hv

/-! ### The non-forwarding branch -/

/-- A branch reads no operand and needs none forwarded. -/
theorem issue_of_branch {i : Instr} {s : State} (hb : Instr.isBranch i = true) (hf : s.cfg.fwd = false) :
    issue i s = if s.d.released then dispatchOrDefer i s.captureFlag else s.waitForFlag := by
  have inv : invalidSources i s = [] := by simp [invalidSources, Instr.sources_of_isBranch hb]
  have read : readOperands i s = s := by simp [readOperands, Instr.sources_of_isBranch hb]
  simp [issue, inv, read, hb, hf, forwardAll]

/-- A branch claims nothing and is no flag producer. -/
theorem dispatch_of_branch {i : Instr} (hb : Instr.isBranch i = true) (s : State) :
    dispatch i s = { s with e := s.d.copy } := by
  cases i
  case bz => rfl
  case bnz => rfl
  all_goals cases hb

/-- Settles O22: the first turn waits; the release of R143 marks D, and the same turn captures FLAG and dispatches or
defers. -/
theorem nonForwardingBranchWaitsThenCapturesFlag : Obligations.NonForwardingBranchWaitsThenCapturesFlag := by
  intro i s hb hi hf hbusy
  refine ⟨fun hs hr => ?first, ?released⟩
  case first =>
    have wait : issue i (s.atTurn .decode) = (s.atTurn .decode).waitForFlag := by
      rw [issue_of_branch (s := s.atTurn .decode) hb hf, if_neg (by simp [hr])]
    rw [decodeStage_eq_issue (preChecks_of_not_stalled (s := s.atTurn .decode) hs) hbusy hs hi, wait]
    rfl
  case released =>
    intro hs hr hwait d hd
    have hbr : s.d.isBranch = true := (Latch.isBranch_of_instr hi).trans hb
    have notReady : ¬(s.atTurn .decode).SourcesReady :=
      fun h => h.1 (by simp only [State.atTurn_d, Latch.sources, hi, Instr.sources_of_isBranch hb])
    have notDownstream : ¬(s.atTurn .decode).DownstreamFree := fun h => by
      simp [State.DownstreamFree, hr] at h
    have pre : preChecks (s.atTurn .decode) = (s.atTurn .decode).releaseBranch := by
      rw [preChecks_eq (s := s.atTurn .decode) hs, if_neg (not_or.2 ⟨notReady, notDownstream⟩),
        if_pos ⟨hf, hbr, hr, hwait⟩]
    have captured : (s.atTurn .decode).releaseBranch.captureFlag = { s with turn := .decode, d := d } := by
      rw [hd]
      rfl
    have turn : decodeStage s = .next (dispatchOrDefer i { s with turn := .decode, d := d }) := by
      rw [decodeStage_eq_issue pre hbusy rfl hi, issue_of_branch (s := (s.atTurn .decode).releaseBranch) hb hf, captured]
      rfl
    refine ⟨by rw [hd]; exact hi, by rw [hd]; rfl, by rw [hd]; rfl, by rw [hd]; rfl, fun he => ?free, fun he => ?held⟩
    case free => rw [turn, dispatchOrDefer_of_free i (by exact he), dispatch_of_branch hb]
    case held =>
      rw [turn, dispatchOrDefer_of_held i (by exact he)]
      rfl

/-! ### No write-after-write interlock -/

/-- `u` is `t` but for the validity bits. -/
def SameButValid (t u : State) : Prop := u = { t with valid := u.valid }

theorem SameButValid.setOperand {t u : State} (h : SameButValid t u) (slot : Slot) (v : Word) :
    SameButValid (t.setOperand slot v) (u.setOperand slot v) := by
  rw [h]
  cases slot <;> rfl

theorem SameButValid.readOperands {t u : State} (h : SameButValid t u) (i : Instr) :
    SameButValid (readOperands i t) (readOperands i u) := by
  rw [h]
  cases i <;> rfl

theorem SameButValid.dispatch {t u : State} (h : SameButValid t u) (i : Instr) :
    SameButValid (dispatch i t) (dispatch i u) := by
  rw [h]
  cases i <;> rfl

theorem SameButValid.dispatchOrDefer {t u : State} (h : SameButValid t u) (i : Instr) :
    SameButValid (dispatchOrDefer i t) (dispatchOrDefer i u) := by
  have he : u.e = t.e := by rw [h]
  unfold Machine.dispatchOrDefer
  rw [he]
  split
  · rw [h]
    rfl
  · exact h.dispatch i

/-- The search reads latches only. -/
theorem SameButValid.forwardAll {t u : State} (h : SameButValid t u) (i : Instr) (l : List (Slot × Reg)) :
    SameButValid (forwardAll i l t) (forwardAll i l u) := by
  induction l generalizing t u with
  | nil => exact h.dispatchOrDefer i
  | cons p rest ih =>
    obtain ⟨slot, r⟩ := p
    have hlatch : u.latch = t.latch := by
      rw [h]
      rfl
    have he : u.e = t.e := congrFun hlatch .execute
    have hfind : findProducer u (searchOrder i slot) r = findProducer t (searchOrder i slot) r := by
      simp only [findProducer, hlatch]
    simp only [Machine.forwardAll, hfind, hlatch, he]
    split
    · rw [h]
      rfl
    · split
      · rw [h]
        rfl
      · exact ih (h.setOperand slot _)

/-- With the same sources invalid, the main logic takes the same path. -/
theorem SameButValid.issue {t u : State} (h : SameButValid t u) {i : Instr}
    (hinv : invalidSources i u = invalidSources i t) : SameButValid (issue i t) (issue i u) := by
  have hr := h.readOperands i
  have hc : u.cfg = t.cfg := by rw [h]
  have hrel : u.d.released = t.d.released := by rw [h]
  simp only [Machine.issue, hinv, hc, readOperands_cfg, readOperands_d_released, hrel]
  split
  · rw [h]
    rfl
  · split
    · split
      · refine SameButValid.forwardAll ?_ i _
        rw [hr]
        rfl
      · rw [hr]
        rfl
    · exact hr.forwardAll i _

/-- Settles O23: the destination's validity bit is no source's, and the main logic looks at no other. -/
theorem noWriteAfterWriteInterlock : Obligations.NoWriteAfterWriteInterlock := by
  intro i s rd b ht _ hsrc
  have hinv : invalidSources i (s.setValid rd b) = invalidSources i s := by
    refine List.filter_congr fun p hp => ?_
    have hne : p.2 ≠ rd := fun h => hsrc p.1 (h ▸ hp)
    rw [State.isValid_setValid_ne s b hne]
  have same : SameButValid (issue i s) (issue i (s.setValid rd b)) := by
    refine SameButValid.issue ?_ hinv
    rfl
  refine ⟨_, _, exec_atDecode i ht, exec_atDecode i ht, ?_⟩
  rw [same]
  exact ⟨rfl, rfl, rfl, rfl⟩

end Sys2Proof.Machine
end

section
/-! What each instruction does at its own turn: the Execute lines (43_alu.md, 44_loadstore.md, 45_control.md), the Memory
turn of LOAD and STORE with the pending jump (42_execute_memory_writeback.md R196 to R203), and the Retire lines. -/

namespace Sys2Proof.Machine

/-! ### Execute -/

/-- Settles O24: the opcode rule of each is `run`. -/
theorem aluInstructionsCompute : Obligations.AluInstructionsCompute := by
  intro rd rs1 rs2 imm s ht
  exact ⟨exec_atExecute _ ht, exec_atExecute _ ht, exec_atExecute _ ht, exec_atExecute _ ht, exec_atExecute _ ht,
    exec_atExecute _ ht⟩

/-- Settles O29: JUMP's opcode rule only leaves its target pending. -/
theorem jumpLeavesItsTargetPending : Obligations.JumpLeavesItsTargetPending :=
  fun _ _ _ ht => exec_atExecute _ ht

/-- Upstream is not blocked where D flows or waits behind E alone. -/
theorem upstreamBlocked_eq_false {s : State} (h : s.d.stalled = true → s.d.reason = some .downstream) :
    upstreamBlocked s = false := by
  rw [Bool.eq_false_iff, Ne, upstreamBlocked_iff]
  rintro ⟨hs, hr, -⟩
  exact hr (h hs)

theorem copyUnlessHeld_of_free {s : State} (h : s.e.stalled = false) : copyUnlessHeld s = s.copyToMemory := by
  simp [copyUnlessHeld, h]

theorem copyUnlessHeld_of_held {s : State} (h : s.e.stalled = true) : copyUnlessHeld s = s := by
  simp [copyUnlessHeld, h]

/-- Settles O30: HALT's opcode rule, and the stage's copy after it. -/
theorem haltEmptiesFetchAndDecode : Obligations.HaltEmptiesFetchAndDecode := by
  refine ⟨fun s ht => exec_atExecute _ ht, fun s hi hb hs hd => ?_⟩
  have copied : copyUnlessHeld (run .halt s.atExecute) = (haltExecute s.atExecute).copyToMemory :=
    copyUnlessHeld_of_free hs
  rw [executeStage_eq_run hb hs (upstreamBlocked_eq_false hd) hi, copied]
  exact ⟨_, rfl, .inl rfl, .inl rfl, rfl, rfl, rfl, by simp [haltExecute], by simp [haltExecute]⟩

/-- Settles O31: a bubble's opcode rule is the identity, it makes no access, and its retirement is `retireBubble`. -/
theorem bubblesOnlyResetFlag : Obligations.BubblesOnlyResetFlag := by
  refine fun s => ⟨?acts, fun ht => ⟨exec_atWriteback _ ht, exec_atWriteback _ ht⟩⟩
  case acts =>
    rintro (ht | ht)
    · exact ⟨exec_atExecute _ ht, exec_atExecute _ ht⟩
    · simp [exec, execNop, execEmpty, ht]

/-- Settles O32: the record reaches the opcode rule, or is cleared before it. -/
theorem fetchFaultRecordFaultsInExecute : Obligations.FetchFaultRecordFaultsInExecute := by
  refine fun s hi hb hs => ⟨fun hd => ?fault, fun hd hr => ?cleared⟩
  case fault => simp [executeStage_eq, hb, hs, upstreamBlocked_eq_false hd, hi]
  case cleared =>
    have hbr : s.e.isBranch = false := by simp only [Latch.isBranch, hi]
    exact ⟨_, executeStage_eq_clearExecute hb hs (upstreamBlocked_iff.2 ⟨hd, hr, hbr⟩), .inr rfl, .inr rfl⟩

/-! ### Branches -/

theorem afterTest_draws (s : State) :
    (afterTest s).draws = if (definedTest s).isSome then s.draws else s.draws + 1 := by
  unfold afterTest
  split <;> rfl

theorem branchEvaluated_iff {s : State} : branchEvaluated s = true ↔ s.cfg.fwd = true ∨ s.e.resolve = true := by
  simp [branchEvaluated]

/-- A branch whose latch carries its pc either redirects Fetch, corrects done and leaves a flush pending, or only
tests. -/
theorem resolveBranch_eq_ite {s : State} {p : Word} (hp : s.e.pc = some p) (cond : Word → Bool) (imm : Word) :
    resolveBranch cond imm s =
      if (s.cfg.fwd = true ∨ s.e.resolve = true) ∧ cond (testedValue s) = true then
        { s with
          draws := (afterTest s).draws
          pc := p + imm - 4
          done := s.done + BitVec.ofInt 32 (Int.tdiv (sint imm) 4 - 1)
          pend := .flush }
      else { s with draws := (afterTest s).draws } := by
  have hpc : branchRedirect imm s = p + imm - 4 := by simp [branchRedirect, branchPc, hp]
  have taken : branchTaken cond s = true ↔ (s.cfg.fwd = true ∨ s.e.resolve = true) ∧ cond (testedValue s) = true := by
    rw [branchTaken, Bool.and_eq_true, branchEvaluated_iff]
  unfold resolveBranch
  rw [afterTest_eq, hpc]
  by_cases ht : branchTaken cond s = true
  · rw [if_pos (taken.1 ht)]
    simp only [ht, if_true]
    rfl
  · rw [if_neg (mt taken.2 ht)]
    simp only [ht]
    rfl

/-- Settles O28: BZ and BNZ test the one value of `testedValue`, drawn exactly where none is defined. -/
theorem branchesResolveInExecute : Obligations.BranchesResolveInExecute := by
  intro imm p s ht hp
  have defined {v : Word} (h : definedTest s = some v) : testedValue s = v ∧ (afterTest s).draws = s.draws := by
    simp [testedValue, afterTest_draws, h]
  refine ⟨testedValue s, (afterTest s).draws, fun hf hm => ?forwarding, fun hf u hu => ?snapshot, ?_⟩
  case forwarding =>
    exact defined (by simp [definedTest, hf, Option.isSome_iff_ne_none, hm])
  case snapshot => exact defined (by simp [definedTest, hf, hu])
  · rintro _ rfl
    rw [exec_atExecute _ ht, exec_atExecute _ ht, run, run, resolveBranch_eq_ite hp, resolveBranch_eq_ite hp]
    simp only [isNonzero, isZero, Bool.not_eq_true', decide_eq_true_eq, decide_eq_false_iff_not, ne_eq,
      and_self]

/-! ### LOAD and STORE -/

section Access
variable {s : State} (ht : s.turn = .memory)
include ht

theorem exec_load_atMemory (rd rs1 : Reg) (imm : Word) : exec (.load rd rs1 imm) s = loadAccess s := by
  simp [exec, execLoad, ht]

theorem exec_store_atMemory (rs1 rs2 : Reg) (imm : Word) : exec (.store rs1 rs2 imm) s = storeAccess s := by
  simp [exec, execStore, ht]

end Access

theorem loadAccess_inside {s : State} {k : Nat} (h : dmIndex s.cfg s.m.addr = some k) :
    loadAccess s = .next (s.setLoaded (s.word k)) := by
  simp [loadAccess_eq, h]

theorem storeAccess_inside {s : State} {k : Nat} (h : dmIndex s.cfg s.m.addr = some k) :
    storeAccess s = .next (s.setWord k s.m.v1) := by
  simp [storeAccess_eq, h]

theorem loadAccess_outside {s : State} (h : dmIndex s.cfg s.m.addr = none) :
    loadAccess s = .fault (.dataAddressFault s.m.addr s) := by
  simp [loadAccess_eq, h]

theorem storeAccess_outside {s : State} (h : dmIndex s.cfg s.m.addr = none) :
    storeAccess s = .fault (.dataAddressFault s.m.addr s) := by
  simp [storeAccess_eq, h]

/-- The last-moment forward of R242 searches M, then W. -/
theorem storeData_eq (rs1 : Reg) (s : State) :
    storeData rs1 s =
      if s.m.dest = some rs1 then s.m.buf else if s.w.dest = some rs1 then s.w.buf else s.e.v1 := by
  by_cases hm : s.m.dest = some rs1 <;> by_cases hw : s.w.dest = some rs1 <;>
    simp [storeData, findProducer, State.latch, Latch.produces, hm, hw]

/-- Settles O33: the opcode rule writes the address and a free value, and the access reads the word. -/
theorem loadComputesAddressThenReads : Obligations.LoadComputesAddressThenReads := by
  refine fun rd rs1 imm s => ⟨fun ht => ⟨_, _, exec_atExecute _ ht⟩, fun ht h0 h1 => ?_⟩
  rw [exec_load_atMemory ht, loadAccess_inside (dmIndex_some h0 h1)]
  rfl

/-- Settles O34: the opcode rule re-resolves the data, and the access is `setWord`. -/
theorem storeResolvesDataThenWrites : Obligations.StoreResolvesDataThenWrites := by
  refine fun rs1 rs2 imm s => ⟨fun ht => ?execute, fun ht hm h0 h1 => ?memory⟩
  case execute =>
    rw [exec_atExecute _ ht, ← storeData_eq rs1 s]
    rfl
  case memory =>
    have hk := dmIndex_some h0 h1
    exact ⟨_, (exec_store_atMemory ht rs1 rs2 imm).trans (storeAccess_inside hk), State.word_setWord_same _ _ hm.1,
      fun j hj => State.word_setWord_ne s _ hj, memoryLegal_setWord _ hm hk, rfl⟩

/-- Settles O35: `dmIndex` gives no word there, and the stage passes the fault on. -/
theorem dataAddressOutsideMemoryFaults : Obligations.DataAddressOutsideMemoryFaults := by
  intro rd rs1 rs2 imm s hout
  have hk := dmIndex_none hout
  have load {u : State} (ht : u.turn = .memory) (hc : u.cfg = s.cfg) (hm : u.m = s.m) :
      exec (.load rd rs1 imm) u = .fault (.dataAddressFault s.m.addr u) := by
    rw [exec_load_atMemory ht, loadAccess_outside (by rw [hc, hm]; exact hk), hm]
  have store {u : State} (ht : u.turn = .memory) (hc : u.cfg = s.cfg) (hm : u.m = s.m) :
      exec (.store rs1 rs2 imm) u = .fault (.dataAddressFault s.m.addr u) := by
    rw [exec_store_atMemory ht, storeAccess_outside (by rw [hc, hm]; exact hk), hm]
  refine ⟨fun ht => ⟨load ht rfl rfl, store ht rfl rfl⟩, fun hi hb hs => ?stage⟩
  case stage =>
    have hload := load (u := s.atTurn .memory) rfl rfl rfl
    have hstore := store (u := s.atTurn .memory) rfl rfl rfl
    obtain hi | hi := hi
    · simp [memoryStage, memoryAccess, hb, hs, hi, hload]
      rfl
    · simp [memoryStage, memoryAccess, hb, hs, hi, hstore]
      rfl

/-- Settles O36: both accesses have the same index, and a canonical memory gives a written word back. -/
theorem loadReadsLastStoredWord : Obligations.LoadReadsLastStoredWord := by
  intro rs1 rs2 rd rb imm imm' s t u hm ht hst hdm hcfg hu haddr
  rw [exec_store_atMemory ht] at hst
  cases hk : dmIndex s.cfg s.m.addr with
  | none =>
    rw [storeAccess_outside hk] at hst
    cases hst
  | some k =>
    rw [storeAccess_inside hk, Host.Outcome.next.injEq] at hst
    subst hst
    have huk : dmIndex u.cfg u.m.addr = some k := by rw [hcfg, haddr, hk]
    refine ⟨_, (exec_load_atMemory hu rd rb imm').trans (loadAccess_inside huk), ?_⟩
    exact (State.word_congr hdm k).trans (State.word_setWord_same k _ hm.1)

/-! ### The Memory stage -/

theorem applyPending_pend (s : State) : (applyPending s).pend = .none := by
  unfold applyPending
  split
  · assumption
  · rfl
  · rfl

/-- With E held the stale M is dropped and no access is made. -/
theorem memoryStage_eq_dropStale {s : State} (hb : s.m.busy = false) (hs : s.e.stalled = true) :
    memoryStage s = .next ((applyPending (s.atTurn .memory)).dropStale true).copyToWriteback := by
  simp [memoryStage, hb, hs]

/-- With E free the resident of M makes its access, then the pending action is applied. -/
theorem memoryStage_eq_access {s u : State} (hb : s.m.busy = false) (hs : s.e.stalled = false)
    (h : memoryAccess (s.atTurn .memory) = .next u) : memoryStage s = .next (applyPending u).copyToWriteback := by
  simp [memoryStage, hb, hs, h, State.dropStale]

/-- Settles O37: the guard holds a busy M, and the stale M of a held E is dropped. -/
theorem memoryGuardStaleLatchAndCopy : Obligations.MemoryGuardStaleLatchAndCopy := by
  refine fun s => ⟨memoryStage_eq_hold_of_busy, fun t hb h => ?copied, fun hb hs => ?stale⟩
  case copied =>
    obtain ⟨m, dm, rfl⟩ := memoryStage_eq_afterAccess h hb
    exact ⟨rfl, by simp [applyPending_pend]⟩
  case stale =>
    exact ⟨_, memoryStage_eq_dropStale hb hs, by simp, rfl, rfl⟩

/-- What a pending jump leaves, whatever the access before it was (R202). -/
theorem memoryStage_of_jump {a : Word} {s t : State} (hb : s.m.busy = false) (hp : s.pend = .jump a)
    (h : memoryStage s = .next t) :
    t.f = .nop ∧ t.d = .nop ∧ t.e = .nop ∧ t.pend = .none ∧ t.lu = false ∧ t.pc = a ∧
      t.done = BitVec.ofInt 32 (jumpCount s.cfg a) ∧ (∀ r, t.isValid r = (decide (s.e.dest = some r) || s.isValid r)) ∧
      t.x = s.x ∧ t.flag = s.flag := by
  obtain ⟨m, dm, rfl⟩ := memoryStage_eq_afterAccess h hb
  have jump : applyPending { s with turn := .memory, m := m, dm := dm } =
      applyJump a { s with turn := .memory, m := m, dm := dm } := by
    simp only [applyPending, hp]
  rw [jump]
  refine ⟨?f, ?d, ?e, ?pend, ?lu, ?pc, ?done, fun r => ?valid, ?x, ?flag⟩
  case valid =>
    rw [State.isValid_congr (State.copyToWriteback_valid _), State.isValid_congr (State.dropStale_valid _ _)]
    exact State.flushYounger_isValid _ r
  all_goals simp [applyJump]

theorem jumpCount_eq (cfg : Config) (t : Word) : jumpCount cfg t = sint (t - cfg.base) / 4 - 1 := by
  rw [jumpCount, Int.fdiv_eq_ediv_of_nonneg _ (by decide)]

/-- The target of index k lies 4k above BASE, which 32 bits read as signed hold for k below 2^29. -/
theorem sint_index_offset {k : Nat} (hk : k < 2 ^ 29) (base : Word) :
    sint (base + BitVec.ofNat 32 (4 * k) - base) / 4 = (k : Int) := by
  have offset : base + BitVec.ofNat 32 (4 * k) - base = BitVec.ofNat 32 (4 * k) := by
    rw [BitVec.add_comm, BitVec.add_sub_cancel]
  have small : 2 * (BitVec.ofNat 32 (4 * k)).toNat < 2 ^ 32 := by
    rw [BitVec.toNat_ofNat, Nat.mod_eq_of_lt (by omega)]
    omega
  rw [offset, sint, BitVec.toInt_eq_toNat_of_lt small, BitVec.toNat_ofNat, Nat.mod_eq_of_lt (by omega)]
  omega

/-- Settles O39: `memoryStage_of_jump`, its floor division by 4 being Lean's, and the count for a target by index. -/
theorem jumpIsAppliedByMemory : Obligations.JumpIsAppliedByMemory := by
  intro a s t hb hp h
  obtain ⟨hf, hd, he, hpend, hlu, hpc, hdone, hvalid, hx, hflag⟩ := memoryStage_of_jump hb hp h
  rw [jumpCount_eq] at hdone
  refine ⟨hf, hd.trans hf.symm, he.trans hf.symm, hpend, hlu, hpc, hdone, ?index, hvalid, State.reg_congr hx, hflag⟩
  case index =>
    rintro k hk rfl
    rw [hdone, sint_index_offset hk]

/-! ### Retirement -/

theorem retireArith_eq (rd : Reg) (s : State) :
    retireArith rd s = { s with
      x := s.x.set rd.val s.w.buf rd.isLt
      flag := some s.w.buf
      valid := if s.e.dest = some rd then s.valid else s.valid.set rd.val true rd.isLt
      done := s.done + 1 } := by
  simp only [retireArith, revalidate_eq]
  rfl

theorem retireResult_eq (rd : Reg) (s : State) :
    retireResult rd s = { s with
      x := s.x.set rd.val s.w.buf rd.isLt
      flag := none
      valid := if s.e.dest = some rd then s.valid else s.valid.set rd.val true rd.isLt
      done := s.done + 1 } := by
  simp only [retireResult, revalidate_eq]
  rfl

/-- Settles O44: the three retirements that count, by what the instruction writes. -/
theorem instructionsRetire : Obligations.InstructionsRetire := by
  intro rd a b imm s ht
  have retires (i : Instr) {t : State} (h : retire i s = t) : exec i s = .next t :=
    (exec_atWriteback i ht).trans (congrArg _ h)
  refine ⟨?arith, ?result, ?plain⟩
  case arith =>
    rintro _ rfl
    exact ⟨retires _ (retireArith_eq rd s), retires _ (retireArith_eq rd s), retires _ (retireArith_eq rd s)⟩
  case result =>
    rintro _ rfl
    exact ⟨retires _ (retireResult_eq rd s), retires _ (retireResult_eq rd s), retires _ (retireResult_eq rd s),
      retires _ (retireResult_eq rd s), retires _ (retireResult_eq rd s)⟩
  case plain =>
    rintro _ rfl
    exact ⟨retires _ rfl, retires _ rfl, retires _ rfl, retires _ rfl, retires _ rfl⟩

/-! ### The driver and the stages around exec -/

/-- Settles O8: the three branches of `advance`, the last followed by the completion test. -/
theorem stepIsTheDriversLoop : Obligations.StepIsTheDriversLoop := by
  refine fun s => ⟨fun r hr => ?stopped, fun l hs hl hclock => ?budget, fun hs hl => ?runs⟩
  case stopped => simp [step, advance, hr]
  case budget => simp [step, advance, hs, budgetSpent, hl, hclock]
  case runs =>
    have budget := budgetSpent_eq_false_iff.2 hl
    refine ⟨fun t ht => ?next, fun r hr => ?fault⟩
    case next =>
      rw [step_eq_checkComplete hs budget ht, State.checkComplete]
      by_cases hd : sint t.done = (t.store.length : Int)
      · rw [if_pos (completed_iff.2 hd), if_pos hd]
      · rw [if_neg (mt completed_iff.1 hd), if_neg hd]
    case fault => simp [step, advance, hs, budget, hr]

/-- A D that the pre-checks leave busy or stalled gets nothing more (R146). -/
theorem decodeStage_eq_hold {s p : State} (hp : preChecks (s.atTurn .decode) = p)
    (hg : (p.d.busy || p.d.stalled) = true) : decodeStage s = .next p := by
  simp [decodeStage_eq, hp, hg]

theorem decodeStage_eq_issueFetchFault {s p : State} (hp : preChecks (s.atTurn .decode) = p) (hb : p.d.busy = false)
    (hs : p.d.stalled = false) (hi : p.d.ins = .fetchFault) : decodeStage s = .next (issueFetchFault p) := by
  simp [decodeStage_eq, hp, hb, hs, hi]

/-- Settles O10: each stage's equation, read where its guard lets it act and where it holds. -/
theorem stagesRunTheirResident : Obligations.StagesRunTheirResident := by
  refine fun s => ⟨writebackStage_eq_hold_of_busy, executeStage_eq_hold_of_busy, fun i hb hi => ?writeback,
    fun i u hb hs hi h => ?memory, fun i u hb hs hi hd h => ?execute, ?decode⟩
  case writeback =>
    simp [writebackStage, hb, hi]
    rfl
  case memory =>
    have access : memoryAccess (s.atTurn .memory) = .next u := by
      simp only [memoryAccess, State.atTurn_m, hi]
      exact h
    exact memoryStage_eq_access hb hs access
  case execute =>
    have hu : upstreamBlocked s = false := by
      rw [Bool.eq_false_iff, Ne, upstreamBlocked_iff, Latch.isBranch_of_instr hi]
      rintro ⟨hds, hr, hbr⟩
      obtain hd | hd := hd hds
      · exact hr hd
      · simp [hbr] at hd
    have hrun : run i s.atExecute = u := by
      have := exec_atExecute i (s := s.atExecute) rfl
      rw [show exec i s.atExecute = .next u from h, Host.Outcome.next.injEq] at this
      exact this.symm
    rw [executeStage_eq_run hb hs hu hi, hrun]
    rfl
  case decode =>
    intro p hp
    have pt : p.turn = .decode := by
      rw [hp, preChecks_turn]
    refine ⟨?held, fun hb hs => ⟨?runs, ?free, ?blocked⟩⟩
    case held =>
      intro hg
      exact decodeStage_eq_hold hp.symm (by simpa using hg)
    case runs =>
      intro i hi
      rw [decodeStage_eq_issue hp.symm hb hs hi, exec_atDecode i pt]
    case free =>
      intro hi he
      rw [decodeStage_eq_issueFetchFault hp.symm hb hs hi, issueFetchFault, if_neg (by simp [he])]
    case blocked =>
      intro hi he
      rw [decodeStage_eq_issueFetchFault hp.symm hb hs hi, issueFetchFault, if_pos he]
      rfl

end Sys2Proof.Machine
end

section
/-! Frames over all turns: what `exec` leaves alone for every instruction, and what the data-path and the control
instructions leave alone besides. -/

namespace Sys2Proof.Machine

/-- Decode's main logic changes D, E, the load-use flag, prev_rd and the validity bits, and nothing else. -/
theorem issue_eq (i : Instr) (s : State) :
    issue i s = { s with
      d := (issue i s).d
      e := (issue i s).e
      lu := (issue i s).lu
      prevRd := (issue i s).prevRd
      valid := (issue i s).valid } := by
  obtain ⟨q, hq, out⟩ := issue_cases i s
  unfold Prepared at hq
  obtain ⟨_, out, -⟩ | ⟨-, -, out⟩ | ⟨-, -, out⟩ | ⟨-, out, -⟩ := out
  · rw [out, hq]
    rfl
  · rw [out, hq]
    rfl
  · rw [out, hq]
    rfl
  · rw [out, dispatch_eq, hq]

theorem State.valid_eq_of_isValid_eq {s t : State} (h : ∀ r, t.isValid r = s.isValid r) : t.valid = s.valid :=
  Vector.ext fun k hk => h ⟨k, hk⟩

/-- What an access changes: a LOAD's M, a STORE's memory. -/
theorem exec_atMemory_eq {i : Instr} {s t : State} (ht : s.turn = .memory) (h : exec i s = .next t) :
    t = { s with m := t.m, dm := t.dm } ∧ ((∀ rd rs1 imm, i ≠ .load rd rs1 imm) → t.m = s.m) ∧
      ((∀ rs1 rs2 imm, i ≠ .store rs1 rs2 imm) → t.dm = s.dm) := by
  obtain ⟨rd, rs1, imm, hi, he⟩ | ⟨rs1, rs2, imm, hi, he⟩ | ⟨-, -, he⟩ := exec_atMemory i ht
  · rw [he] at h
    cases hk : dmIndex s.cfg s.m.addr with
    | none =>
      rw [loadAccess_outside hk] at h
      cases h
    | some k =>
      rw [loadAccess_inside hk] at h
      cases h
      exact ⟨rfl, fun hl => absurd hi (hl rd rs1 imm), fun _ => rfl⟩
  · rw [he] at h
    cases hk : dmIndex s.cfg s.m.addr with
    | none =>
      rw [storeAccess_outside hk] at h
      cases h
    | some k =>
      rw [storeAccess_inside hk] at h
      cases h
      exact ⟨rfl, fun _ => rfl, fun hl => absurd hi (hl rs1 rs2 imm)⟩
  · rw [he] at h
    cases h
    exact ⟨rfl, fun _ => rfl, fun _ => rfl⟩

/-- What an instruction leaves alone at a turn, whatever it is. -/
structure ExecFrame (i : Instr) (s t : State) : Prop where
  clock : t.clock = s.clock
  w : t.w = s.w
  inputs : SameInputs s t
  stop : t.stop = s.stop
  regs : s.turn ≠ .writeback → t.x = s.x ∧ t.flag = s.flag
  regsBut : ∀ r, Instr.dest i ≠ some r → t.reg r = s.reg r
  validBut : ∀ r, Instr.dest i ≠ some r → t.isValid r = s.isValid r
  done : s.turn ≠ .writeback → s.turn ≠ .execute → t.done = s.done
  control : s.turn ≠ .execute → t.pc = s.pc ∧ t.halted = s.halted ∧ t.pend = s.pend ∧ t.f = s.f
  hazard : s.turn ≠ .decode → t.prevRd = s.prevRd ∧ t.lu = s.lu
  latches : s.turn ≠ .decode → s.turn ≠ .execute → t.d = s.d ∧ t.e = s.e
  memory : s.turn ≠ .memory → t.m = s.m ∧ t.dm = s.dm

theorem execFrame_refl (i : Instr) (s : State) : ExecFrame i s s :=
  ⟨rfl, rfl, .refl s, rfl, fun _ => ⟨rfl, rfl⟩, fun _ _ => rfl, fun _ _ => rfl, fun _ _ => rfl,
    fun _ => ⟨rfl, rfl, rfl, rfl⟩, fun _ => ⟨rfl, rfl⟩, fun _ _ => ⟨rfl, rfl⟩, fun _ => ⟨rfl, rfl⟩⟩

theorem execFrame_issue (i : Instr) {s : State} (ht : s.turn = .decode) : ExecFrame i s (issue i s) :=
  ⟨by simp, by simp, issue_sameInputs i s, by simp, fun _ => by simp, fun r _ => State.reg_congr (issue_x i s) r,
    fun _ => issue_isValid s, fun _ _ => by simp, fun _ => by simp, fun hn => absurd ht hn, fun hn => absurd ht hn,
    fun _ => by simp⟩

theorem execFrame_run (i : Instr) {s : State} (ht : s.turn = .execute) : ExecFrame i s (run i s) := by
  have hx : (run i s).x = s.x := by rw [run_eq]
  have hv : (run i s).valid = s.valid := by rw [run_eq]
  exact ⟨by rw [run_eq], by rw [run_eq], run_sameInputs i s, by rw [run_eq], fun _ => ⟨hx, by rw [run_eq]⟩,
    fun r _ => State.reg_congr hx r, fun r _ => State.isValid_congr hv r, fun _ hn => absurd ht hn, fun hn => absurd ht hn,
    fun _ => ⟨by rw [run_eq], by rw [run_eq]⟩, fun _ hn => absurd ht hn, fun _ => ⟨by rw [run_eq], by rw [run_eq]⟩⟩

theorem execFrame_access {i : Instr} {s t : State} (ht : s.turn = .memory) (h : exec i s = .next t) :
    ExecFrame i s t := by
  obtain ⟨h, -, -⟩ := exec_atMemory_eq ht h
  rw [h]
  exact ⟨rfl, rfl, ⟨rfl, rfl⟩, rfl, fun _ => ⟨rfl, rfl⟩, fun _ _ => rfl, fun _ _ => rfl, fun _ _ => rfl,
    fun _ => ⟨rfl, rfl, rfl, rfl⟩, fun _ => ⟨rfl, rfl⟩, fun _ _ => ⟨rfl, rfl⟩, fun hn => absurd ht hn⟩

theorem execFrame_retire (i : Instr) {s : State} (ht : s.turn = .writeback) : ExecFrame i s (retire i s) := by
  have regs (r : Reg) (hr : Instr.dest i ≠ some r) : (retire i s).reg r = s.reg r := by rw [retire_reg, if_neg hr]
  have valid (r : Reg) (hr : Instr.dest i ≠ some r) : (retire i s).isValid r = s.isValid r := by
    rw [retire_isValid, if_neg fun h => hr h.1]
  refine ⟨?_, ?_, retire_sameInputs i s, ?_, fun hn => absurd ht hn, regs, valid, fun hn => absurd ht hn, fun _ => ?_,
    fun _ => ?_, fun _ _ => ?_, fun _ => ?_⟩ <;> rw [retire_eq] <;> simp

theorem execFrame {i : Instr} {s t : State} (h : exec i s = .next t) : ExecFrame i s t := by
  cases ht : s.turn
  case fetch =>
    rw [exec_atFetch i ht] at h
    cases h
    exact execFrame_refl i s
  case decode =>
    rw [exec_atDecode i ht] at h
    cases h
    exact execFrame_issue i ht
  case execute =>
    rw [exec_atExecute i ht] at h
    cases h
    exact execFrame_run i ht
  case memory => exact execFrame_access ht h
  case writeback =>
    rw [exec_atWriteback i ht] at h
    cases h
    exact execFrame_retire i ht

namespace ExecFrame
variable {i : Instr} {s t : State} (h : ExecFrame i s t)
include h

theorem sameRegs (hd : Instr.dest i = none) : SameRegs s t := fun r => h.regsBut r (by simp [hd])

theorem valid_eq (hd : Instr.dest i = none) : t.valid = s.valid :=
  State.valid_eq_of_isValid_eq fun r => h.validBut r (by simp [hd])

end ExecFrame

/-! ### The instructions of the data path -/

/-- An instruction that writes a register, or a STORE. -/
def Instr.IsData (i : Instr) : Prop := (∃ rd, Instr.dest i = some rd) ∨ ∃ rs1 rs2 imm, i = .store rs1 rs2 imm

/-- Its opcode rule writes E alone (and a LOAD's draws a value). -/
theorem run_of_isData {i : Instr} (h : Instr.IsData i) (s : State) :
    run i s = { s with e := (run i s).e, draws := (run i s).draws } := by
  obtain ⟨rd, hd⟩ | ⟨_, _, _, rfl⟩ := h
  · cases i
    case store => cases hd
    case bz => cases hd
    case bnz => cases hd
    case jump => cases hd
    case halt => cases hd
    case nop => cases hd
    case empty => cases hd
    all_goals rfl
  · rfl

/-- What a data-path instruction leaves alone besides. -/
theorem exec_data_frame {i : Instr} {s t : State} (hi : Instr.IsData i) (h : exec i s = .next t) :
    (s.turn ≠ .writeback → t.done = s.done) ∧ t.pc = s.pc ∧ t.halted = s.halted ∧ t.pend = s.pend ∧ t.f = s.f ∧
      (s.turn ≠ .decode → t.d = s.d) := by
  have frame := execFrame h
  by_cases ht : s.turn = .execute
  · rw [exec_atExecute i ht] at h
    cases h
    rw [run_of_isData hi]
    exact ⟨fun _ => rfl, rfl, rfl, rfl, rfl, fun _ => rfl⟩
  · obtain ⟨hpc, hhalted, hpend, hf⟩ := frame.control ht
    exact ⟨fun hn => frame.done hn ht, hpc, hhalted, hpend, hf, fun hn => (frame.latches hn ht).1⟩

/-- Without a STORE no turn changes the data memory, without a LOAD none changes M. -/
theorem exec_memory_frame {i : Instr} {s t : State} (h : exec i s = .next t) :
    ((∀ rd rs1 imm, i ≠ .load rd rs1 imm) → t.m = s.m) ∧ ((∀ rs1 rs2 imm, i ≠ .store rs1 rs2 imm) → t.dm = s.dm) := by
  by_cases ht : s.turn = .memory
  · exact (exec_atMemory_eq ht h).2
  · obtain ⟨hm, hdm⟩ := (execFrame h).memory ht
    exact ⟨fun _ => hm, fun _ => hdm⟩

/-- Settles O45: `execFrame` with the destination rd, and the frames of a data-path instruction that is no LOAD or
STORE. -/
theorem registerInstructionsFrame : Obligations.RegisterInstructionsFrame := by
  intro rd a b imm i s t hi h
  have alu : Instr.dest i = some rd ∧ (∀ rd rs1 imm, i ≠ .load rd rs1 imm) ∧ ∀ rs1 rs2 imm, i ≠ .store rs1 rs2 imm := by
    simp only [List.mem_cons, List.not_mem_nil, or_false] at hi
    obtain rfl | rfl | rfl | rfl | rfl | rfl | rfl := hi <;> simp [Instr.dest]
  obtain ⟨hd, hload, hstore⟩ := alu
  have frame := execFrame h
  have other {r : Reg} (hr : r ≠ rd) : Instr.dest i ≠ some r := fun he => hr (Option.some.inj (he.symm.trans hd))
  obtain ⟨hdone, hpc, hhalted, hpend, hf, hdlatch⟩ := exec_data_frame (.inl ⟨rd, hd⟩) h
  obtain ⟨hm, hdm⟩ := exec_memory_frame h
  refine ⟨fun r hr => frame.regsBut r (other hr), fun hn => ⟨State.reg_congr (frame.regs hn).1, (frame.regs hn).2, hdone hn⟩,
    fun r hr => frame.validBut r (other hr), State.word_congr (hdm hstore), hpc, hhalted, frame.clock, hpend, hf, hm hload,
    frame.w, frame.inputs, frame.stop, fun hn => ⟨(frame.hazard hn).1, (frame.hazard hn).2, hdlatch hn⟩,
    fun hn hx => (frame.latches hn hx).2⟩

/-- LOAD and STORE leave prev_rd alone too: neither is a flag producer. -/
theorem exec_prevRd {i : Instr} {s t : State} (hi : Instr.flagDest i = none) (h : exec i s = .next t) :
    t.prevRd = s.prevRd := by
  by_cases ht : s.turn = .decode
  · rw [exec_atDecode i ht] at h
    cases h
    exact issue_prevRd s hi
  · exact ((execFrame h).hazard ht).1

/-- Settles O46: the frames of a data-path instruction, and a STORE's access as one `setWord`. -/
theorem loadStoreFrame : Obligations.LoadStoreFrame := by
  intro rd a b imm s t
  have common {i : Instr} (hi : Instr.IsData i) (hp : Instr.flagDest i = none) (h : exec i s = .next t) :
      (s.turn ≠ .writeback → t.flag = s.flag ∧ t.done = s.done) ∧ t.pc = s.pc ∧ t.halted = s.halted ∧
      t.clock = s.clock ∧ t.pend = s.pend ∧ t.prevRd = s.prevRd ∧ t.f = s.f ∧ t.w = s.w ∧ SameInputs s t ∧
      t.stop = s.stop ∧ (s.turn ≠ .decode → t.lu = s.lu ∧ t.d = s.d) ∧
      (s.turn ≠ .decode → s.turn ≠ .execute → t.e = s.e) ∧ (s.turn ≠ .memory → t.m = s.m) := by
    have frame := execFrame h
    obtain ⟨hdone, hpc, hhalted, hpend, hf, hd⟩ := exec_data_frame hi h
    exact ⟨fun hn => ⟨(frame.regs hn).2, hdone hn⟩, hpc, hhalted, frame.clock, hpend, exec_prevRd hp h, hf, frame.w,
      frame.inputs, frame.stop, fun hn => ⟨(frame.hazard hn).2, hd hn⟩, fun hn hx => (frame.latches hn hx).2,
      fun hn => (frame.memory hn).1⟩
  refine ⟨fun h => ?load, fun h => ?store, ?both⟩
  case load =>
    have frame := execFrame h
    have other {r : Reg} (hr : r ≠ rd) : Instr.dest (.load rd a imm) ≠ some r := fun he => hr (Option.some.inj he).symm
    exact ⟨fun r hr => frame.regsBut r (other hr), fun hn => State.reg_congr (frame.regs hn).1,
      fun r hr => frame.validBut r (other hr), State.word_congr ((exec_memory_frame h).2 (by simp))⟩
  case store =>
    have frame := execFrame h
    refine ⟨frame.sameRegs rfl, frame.valid_eq rfl, fun hn => State.word_congr (frame.memory hn).2, fun k hk => ?_⟩
    by_cases ht : s.turn = .memory
    · rw [exec_store_atMemory ht, storeAccess_inside hk] at h
      cases h
      exact fun j hj => State.word_setWord_ne s _ hj
    · exact fun j _ => State.word_congr (frame.memory ht).2 j
  case both =>
    rintro (h | h)
    · exact common (.inl ⟨rd, rfl⟩) rfl h
    · exact common (.inr ⟨a, b, imm, rfl⟩) rfl h

/-! ### The control instructions -/

/-- The opcode rule of a control instruction leaves E and the load-use flag, pend but for a branch or a jump, and F, D and
HALTED but for HALT. -/
theorem run_of_control {i : Instr} (hd : ¬Instr.IsData i) (s : State) :
    (run i s).e = s.e ∧ (i = .halt ∨ i = .nop ∨ i = .empty → (run i s).pend = s.pend) := by
  have branch (cond : Word → Bool) (imm : Word) : (resolveBranch cond imm s).e = s.e := afterTest_e s
  cases i
  case bz imm => exact ⟨branch isZero imm, by simp⟩
  case bnz imm => exact ⟨branch isNonzero imm, by simp⟩
  case jump => exact ⟨rfl, by simp⟩
  case halt => exact ⟨rfl, fun _ => rfl⟩
  case nop => exact ⟨rfl, fun _ => rfl⟩
  case empty => exact ⟨rfl, fun _ => rfl⟩
  case store => exact absurd (.inr ⟨_, _, _, rfl⟩) hd
  all_goals exact absurd (.inl ⟨_, rfl⟩) hd

/-- What a control instruction leaves alone besides. -/
theorem exec_control_frame {i : Instr} {s t : State} (hi : ¬Instr.IsData i) (h : exec i s = .next t) :
    (Instr.isBranch i = false ∨ s.turn ≠ .execute → t.pc = s.pc) ∧
    (i = .halt ∨ i = .nop ∨ i = .empty ∨ s.turn ≠ .execute → t.pend = s.pend) ∧
    (i ≠ .halt ∨ s.turn ≠ .execute → t.halted = s.halted ∧ t.f = s.f) ∧ (s.turn ≠ .decode → t.e = s.e) ∧
    (s.turn ≠ .decode → (i ≠ .halt ∨ s.turn ≠ .execute) → t.d = s.d) := by
  have frame := execFrame h
  by_cases ht : s.turn = .execute
  · rw [exec_atExecute i ht] at h
    cases h
    obtain ⟨he, hpend⟩ := run_of_control hi s
    have younger (hh : i ≠ .halt ∨ s.turn ≠ .execute) := run_younger (hh.resolve_right fun hn => hn ht) s
    exact ⟨fun hb => run_pc (hb.resolve_right fun hn => hn ht) s, fun hc => hpend (by tauto),
      fun hh => ⟨(younger hh).2.2, (younger hh).1⟩, fun _ => he, fun _ hh => (younger hh).2.1⟩
  · obtain ⟨hpc, hhalted, hpend, hf⟩ := frame.control ht
    exact ⟨fun _ => hpc, fun _ => hpend, fun _ => ⟨hhalted, hf⟩, fun hn => (frame.latches hn ht).2,
      fun hn _ => (frame.latches hn ht).1⟩

/-- Settles O47: `execFrame` without a destination, and the frames of a control instruction. -/
theorem controlFrame : Obligations.ControlFrame := by
  intro a imm i s t hi h
  have control : ¬Instr.IsData i ∧ Instr.dest i = none ∧ Instr.flagDest i = none ∧
      (∀ rd rs1 imm, i ≠ .load rd rs1 imm) ∧ ∀ rs1 rs2 imm, i ≠ .store rs1 rs2 imm := by
    simp only [List.mem_cons, List.not_mem_nil, or_false] at hi
    obtain rfl | rfl | rfl | rfl | rfl | rfl := hi <;> simp [Instr.dest, Instr.flagDest, Instr.IsData]
  obtain ⟨hdata, hdest, hflag, hload, hstore⟩ := control
  have frame := execFrame h
  obtain ⟨hm, hdm⟩ := exec_memory_frame h
  obtain ⟨hpc, hpend, hyounger, he, hd⟩ := exec_control_frame hdata h
  exact ⟨frame.sameRegs hdest, frame.valid_eq hdest, State.word_congr (hdm hstore), fun hn => (frame.regs hn).2,
    frame.done, hpc, hpend, hyounger, frame.clock, exec_prevRd hflag h, hm hload, frame.w, frame.inputs, frame.stop,
    fun hn => ⟨(frame.hazard hn).2, he hn⟩, hd⟩

end Sys2Proof.Machine
end

section
/-! The step as a whole: the frame of each stage's turn, what reaches Execute and Decode within a cycle, and what a step
may change in the memory, the registers, the validity bits, HALTED and prev_rd (10_state.md, 20_memory.md), and how it
stops (60_exceptions.md). -/

namespace Sys2Proof.Machine

/-! ### Frames of the stages -/

theorem writebackStage_frame {s t : State} (h : writebackStage s = .next t) :
    t = { s with x := t.x, valid := t.valid, flag := t.flag, done := t.done, turn := .writeback } := by
  obtain ⟨-, rfl⟩ | ⟨-, i, -, rfl⟩ | ⟨-, -, rfl⟩ := writebackStage_cases h
  · rfl
  · rw [retire_eq]
    rfl
  · rfl

theorem decodeStage_frame {s t : State} (h : decodeStage s = .next t) :
    t = { s with d := t.d, e := t.e, lu := t.lu, prevRd := t.prevRd, valid := t.valid, turn := .decode } := by
  obtain ⟨p, hp, guarded⟩ := decodeStage_cases h
  have frame : p = { s with d := p.d, turn := .decode } := by
    obtain ⟨d, hd, -⟩ := preChecks_cases (s.atTurn .decode)
    rw [hp, hd]
    rfl
  obtain ⟨-, rfl⟩ | ⟨-, i, -, rfl⟩ | ⟨-, -, rfl⟩ := guarded
  · rw [frame]
  · rw [issue_eq, frame]
  · unfold issueFetchFault
    rw [frame]
    split <;> rfl

/-- A pending action makes F, D and E NOPs and releases E's claim. -/
theorem applyPending_cases (s : State) :
    (s.pend = .none ∧ applyPending s = s) ∨
    (s.pend ≠ .none ∧ (applyPending s).d = .nop ∧ (applyPending s).e = .nop ∧
      ∀ r, (applyPending s).isValid r = (decide (s.e.dest = some r) || s.isValid r)) := by
  unfold applyPending
  cases s.pend with
  | none => exact .inl ⟨rfl, rfl⟩
  | flush => exact .inr ⟨by simp, rfl, rfl, s.flushYounger_isValid⟩
  | jump a => exact .inr ⟨by simp, rfl, rfl, s.flushYounger_isValid⟩

/-- A pending action takes place where M is free, and nothing else in Memory's turn moves D, E or a validity bit. -/
theorem memoryStage_younger {s t : State} (h : memoryStage s = .next t) :
    (t.d = s.d ∧ t.e = s.e ∧ t.valid = s.valid) ∨
    (s.m.busy = false ∧ s.pend ≠ .none ∧ t.d = .nop ∧ t.e = .nop ∧
      ∀ r, t.isValid r = (decide (s.e.dest = some r) || s.isValid r)) := by
  obtain ⟨-, rfl⟩ | ⟨hb, -⟩ := memoryStage_cases h
  · exact .inl ⟨rfl, rfl, rfl⟩
  · obtain ⟨m, dm, rfl⟩ := memoryStage_eq_afterAccess h hb
    obtain ⟨-, same⟩ | ⟨hp, hd, he, hv⟩ := applyPending_cases { s with turn := .memory, m := m, dm := dm }
    · rw [same]
      exact .inl (by simp)
    · refine .inr ⟨hb, hp, by simpa using hd, by simpa using he, fun r => ?_⟩
      rw [State.isValid_congr (State.copyToWriteback_valid _), State.isValid_congr (State.dropStale_valid _ _)]
      exact hv r

theorem memoryStage_control {s t : State} (h : memoryStage s = .next t) :
    t.halted = s.halted ∧ t.prevRd = s.prevRd ∧ t.clock = s.clock := by
  obtain ⟨-, rfl⟩ | ⟨hb, -⟩ := memoryStage_cases h
  · exact ⟨rfl, rfl, rfl⟩
  · obtain ⟨m, dm, rfl⟩ := memoryStage_eq_afterAccess h hb
    simp

/-- HALTED is set by the HALT in E, and only by it. -/
theorem executeStage_halted {s t : State} (h : executeStage s = .next t) :
    (s.halted = true → t.halted = true) ∧ (t.halted = true → s.halted = true ∨ s.e.ins = .instr .halt) := by
  obtain ⟨-, rfl⟩ | ⟨-, -, rfl⟩ | ⟨-, -, -, rfl⟩ | ⟨-, -, -, i, hi, rfl⟩ := executeStage_cases h
  · exact ⟨id, .inl⟩
  · exact ⟨id, .inl⟩
  · exact ⟨id, .inl⟩
  · rw [copyUnlessHeld_eq, hi]
    by_cases hh : i = .halt
    · subst hh
      exact ⟨fun _ => rfl, fun _ => .inr rfl⟩
    · obtain ⟨-, -, hhalted⟩ := run_younger hh s.atExecute
      exact ⟨fun hs => hhalted.trans hs, fun ht => .inl (hhalted.symm.trans ht)⟩

/-- Execute keeps D, or a HALT empties it. -/
theorem executeStage_d {s t : State} (h : executeStage s = .next t) : t.d = s.d ∨ Bubble t.d := by
  obtain ⟨-, rfl⟩ | ⟨-, -, rfl⟩ | ⟨-, -, -, rfl⟩ | ⟨-, -, -, i, hi, rfl⟩ := executeStage_cases h
  · exact .inl rfl
  · exact .inl rfl
  · exact .inl rfl
  · rw [copyUnlessHeld_eq]
    by_cases hh : i = .halt
    · subst hh
      exact .inr (.inl rfl)
    · exact .inl (run_younger hh s.atExecute).2.1

theorem Bubble.dest {l : Latch} (h : Bubble l) : l.dest = none := by
  obtain h | h := h <;> simp [Latch.dest, h, Instr.dest]

theorem decodeStage_d_ins {s t : State} (h : decodeStage s = .next t) : t.d.ins = s.d.ins := by
  obtain ⟨p, hp, guarded⟩ := decodeStage_cases h
  have pd : p.d.ins = s.d.ins := hp ▸ preChecks_d_ins _
  rw [← pd]
  obtain ⟨-, rfl⟩ | ⟨-, i, -, rfl⟩ | ⟨-, -, rfl⟩ := guarded
  · rfl
  · obtain ⟨q, hq, out⟩ := issue_cases i p
    have qd : q.d.ins = p.d.ins := by rw [hq]
    obtain ⟨_, out, -⟩ | ⟨-, -, out⟩ | ⟨-, -, out⟩ | ⟨-, out, -⟩ := out
    · rw [out]
      exact qd
    · rw [out]
      exact qd
    · rw [out]
      exact qd
    · rw [out, dispatch_d]
      exact qd
  · unfold issueFetchFault
    split <;> rfl

/-- Decode changes prev_rd only where it dispatches a flag producer. -/
theorem decodeStage_prevRd {s t : State} (h : decodeStage s = .next t) (hne : t.prevRd ≠ s.prevRd) :
    ∃ i rd, s.d.ins = .instr i ∧ Instr.flagDest i = some rd ∧ t.prevRd = some rd ∧ t.e.ins = s.d.ins := by
  have hins := decodeStage_d_ins h
  obtain ⟨p, hp, guarded⟩ := decodeStage_cases h
  have pd : p.d.ins = s.d.ins := hp ▸ preChecks_d_ins _
  have pprev : p.prevRd = s.prevRd := by simp [hp]
  rw [← pprev] at hne
  obtain ⟨-, rfl⟩ | ⟨-, i, hi, rfl⟩ | ⟨-, -, rfl⟩ := guarded
  · exact absurd rfl hne
  · obtain ⟨q, hq, out⟩ := issue_cases i p
    have qprev : q.prevRd = p.prevRd := by rw [hq]
    obtain ⟨_, out, -⟩ | ⟨-, -, out⟩ | ⟨-, -, out⟩ | ⟨-, out, -⟩ := out
    · exact absurd (by rw [out]; exact qprev) hne
    · exact absurd (by rw [out]; exact qprev) hne
    · exact absurd (by rw [out]; exact qprev) hne
    · rw [out, dispatch_d] at hins
      rw [out] at hne ⊢
      cases hf : Instr.flagDest i with
      | none => exact absurd (by simp [dispatch, hf, qprev]) hne
      | some rd => exact ⟨i, rd, pd.symm.trans hi, hf, by simp [dispatch, hf], by simpa using hins⟩
  · exact absurd (issueFetchFault_prevRd p) hne

/-! ### Within a cycle -/

/-- The turns of a cycle before Decode's, with what they leave in E for Execute and in D for Decode. -/
theorem cycle_latches {s a b c : State} (hw : writebackStage s = .next a) (hm : memoryStage a = .next b)
    (he : executeStage b = .next c) : (b.e = s.e ∨ b.e = .nop) ∧ (c.d = s.d ∨ Bubble c.d) := by
  have ad : a.d = s.d := by rw [writebackStage_frame hw]
  have ae : a.e = s.e := by rw [writebackStage_frame hw]
  obtain ⟨hd, hbe, -⟩ | ⟨-, -, hd, hbe, -⟩ := memoryStage_younger hm
  · exact ⟨.inl (hbe.trans ae), (executeStage_d he).imp_left fun h => h.trans (hd.trans ad)⟩
  · refine ⟨.inr hbe, .inr ?_⟩
    obtain h | h := executeStage_d he
    · rw [h, hd]
      exact .inr rfl
    · exact h

/-- A step that changes something the driver does not write ran a cycle. -/
theorem cycle_of_step_changes {α : Type} {s t : State} (f : State → α) (hf : ∀ (u : State) stop, f { u with stop := stop } = f u)
    (h : step s = .next t) (hne : f t ≠ f s) : ∃ u, cycle s = .next u ∧ f t = f u := by
  obtain ⟨-, rfl⟩ | ⟨-, -, rfl⟩ | ⟨-, -, u, hu, rfl⟩ := step_cases h
  · exact absurd rfl hne
  · exact absurd (hf s _) hne
  · refine ⟨u, hu, ?_⟩
    unfold State.checkComplete
    split
    · exact hf u _
    · rfl

/-! ### Memory and registers -/

/-- A Memory turn changes a word only by the STORE in a free and current M, and to its data. -/
theorem memoryStage_word {s t : State} (hl : MemoryLegal s) (h : memoryStage s = .next t) {k : Nat}
    (hne : t.word k ≠ s.word k) :
    (∃ rs1 rs2 imm, s.m.ins = .instr (.store rs1 rs2 imm)) ∧ s.m.busy = false ∧ s.e.stalled = false ∧
      sint s.m.addr = (k : Int) ∧ k < s.cfg.dmemWords ∧ t.word k = s.m.v1 := by
  obtain ⟨-, rfl⟩ | ⟨hb, u, rfl, access⟩ := memoryStage_cases h
  · exact absurd rfl hne
  · have hword : ((applyPending u).dropStale s.e.stalled).copyToWriteback.word k = u.word k :=
      State.word_congr (by simp) k
    rw [hword] at hne ⊢
    obtain ⟨-, rfl⟩ | ⟨-, _, _, _, _, -, -, rfl⟩ | ⟨hs, rs1, rs2, imm, j, hi, hj, rfl⟩ | ⟨-, -, -, rfl⟩ := access
    · exact absurd rfl hne
    · exact absurd rfl hne
    · obtain rfl : k = j := by
        by_contra hkj
        exact hne (State.word_setWord_ne (s.atTurn .memory) s.m.v1 hkj)
      obtain ⟨haddr, hin⟩ := dmIndex_eq_some.1 hj
      exact ⟨⟨rs1, rs2, imm, hi⟩, hb, hs, haddr, hin, State.word_setWord_same k _ hl.1⟩
    · exact absurd rfl hne

/-- Settles O49: of the five turns only Memory's writes the data memory (`memoryStage_word`). -/
theorem onlyStoreChangesMemory : Obligations.OnlyStoreChangesMemory := by
  intro s t hl h k hne
  obtain ⟨u, hu, htu⟩ := cycle_of_step_changes (·.word k) (fun _ _ => rfl) h hne
  obtain ⟨a, b, c, d, hw, hm, he, hd, rfl⟩ := cycle_eq_next.1 hu
  have hdm : (fetchStage d).endCycle.dm = b.dm := by
    rw [State.endCycle_dm, fetchStage_dm, decodeStage_frame hd, executeStage_frame he]
  have htb : t.word k = b.word k := htu.trans (State.word_congr hdm k)
  have frame := writebackStage_frame hw
  have hla : MemoryLegal a := by
    rw [frame]
    exact hl
  have hne' : b.word k ≠ a.word k := by
    rw [← htb, frame]
    exact hne
  have changed := memoryStage_word hla hm hne'
  rw [← htb, frame] at changed
  exact changed

/-- Settles O50: only Writeback's turn writes a register. -/
theorem onlyRetirementChangesRegisters : Obligations.OnlyRetirementChangesRegisters := by
  intro s t h r hne
  obtain ⟨u, hu, htu⟩ := cycle_of_step_changes (·.reg r) (fun _ _ => rfl) h hne
  obtain ⟨a, b, c, d, hw, hm, he, hd, rfl⟩ := cycle_eq_next.1 hu
  have hx : (fetchStage d).endCycle.x = a.x := by
    rw [State.endCycle_x, fetchStage_x, decodeStage_x hd, executeStage_frame he, memoryStage_x hm]
  have hta : t.reg r = a.reg r := htu.trans (State.reg_congr hx r)
  have written := writebackStage_reg hw r
  rw [← hta] at written
  by_cases hret : s.w.busy = false ∧ s.w.dest = some r
  · exact ⟨hret.1, hret.2, written.trans (if_pos hret)⟩
  · exact absurd (written.trans (if_neg hret)) hne

/-! ### Validity bits, HALTED and prev_rd -/

/-- The validity bits of a cycle: set by Writeback or by a flush, cleared by Decode's claim. -/
theorem cycle_isValid {s a b c d : State} (hw : writebackStage s = .next a) (hm : memoryStage a = .next b)
    (he : executeStage b = .next c) (hd : decodeStage c = .next d) (r : Reg) :
    (d.isValid r = true → s.isValid r = true ∨ (s.w.busy = false ∧ s.w.dest = some r) ∨
      (s.pend ≠ .none ∧ s.m.busy = false ∧ s.e.dest = some r)) ∧
    (s.isValid r = true → d.isValid r = false → c.d.dest = some r ∧ d.e = d.d.copy) := by
  have frame := writebackStage_frame hw
  have hwb := writebackRevalidatesUnlessClaimed s a hw r
  have hcb : c.isValid r = b.isValid r := State.isValid_congr (by rw [executeStage_frame he]) r
  have hclaim := (claimOnlyAtDispatch c d hd).2 r
  have hset : a.isValid r = true → s.isValid r = true ∨ (s.w.busy = false ∧ s.w.dest = some r) := by
    rw [hwb]
    split
    · next hret => exact fun _ => .inr ⟨hret.1, hret.2.1⟩
    · exact .inl
  have hkeep : s.isValid r = true → a.isValid r = true := by
    intro hs
    rw [hwb]
    split
    · rfl
    · exact hs
  have hflush : (a.isValid r = true → b.isValid r = true) ∧ (b.isValid r = true → a.isValid r = true ∨
      (s.pend ≠ .none ∧ s.m.busy = false ∧ s.e.dest = some r)) := by
    obtain ⟨-, -, hv⟩ | ⟨hb, hp, -, -, hv⟩ := memoryStage_younger hm
    · rw [State.isValid_congr hv r]
      exact ⟨id, .inl⟩
    · rw [hv r, Bool.or_eq_true, decide_eq_true_eq]
      rw [frame] at hb hp ⊢
      exact ⟨.inr, fun h => h.elim (fun h => .inr ⟨hp, hb, h⟩) .inl⟩
  refine ⟨fun ht => ?set, fun hs ht => ?clear⟩
  case set =>
    have hc : c.isValid r = true := by
      by_contra hc
      have := (hclaim (by rw [ht]; exact fun h => hc h.symm)).2.1
      simp [ht] at this
    obtain ha | hf := hflush.2 (hcb ▸ hc)
    · exact (hset ha).imp_right .inl
    · exact .inr (.inr hf)
  case clear =>
    have hc : c.isValid r = true := hcb ▸ hflush.1 (hkeep hs)
    obtain ⟨hdest, -, hcopy⟩ := hclaim (by rw [ht, hc]; simp)
    exact ⟨hdest, hcopy⟩

/-- Settles O51: `cycle_isValid`; what Decode claims for is D's own resident, for a bubble that an earlier turn put there
claims nothing. -/
theorem validityChangesOnlyByClaimRetireFlush : Obligations.ValidityChangesOnlyByClaimRetireFlush := by
  intro s t h r
  by_cases hne : t.isValid r = s.isValid r
  · rw [hne]
    exact ⟨fun h h' => (by simp [h] at h'), fun h h' => (by simp [h] at h')⟩
  obtain ⟨u, hu, htu⟩ := cycle_of_step_changes (fun v => (v.isValid r, v.e)) (fun _ _ => rfl) h
    fun h => hne (congrArg Prod.fst h)
  obtain ⟨htv, hte⟩ := Prod.mk.injEq _ _ _ _ ▸ htu
  obtain ⟨a, b, c, d, hw, hm, he, hd, rfl⟩ := cycle_eq_next.1 hu
  have hvd : t.isValid r = d.isValid r := htv.trans (State.isValid_congr (by simp) r)
  have hed : t.e = d.e := hte.trans (by simp)
  obtain ⟨hset, hclear⟩ := cycle_isValid hw hm he hd r
  rw [hvd, hed]
  refine ⟨fun hs ht => (hset ht).resolve_left (by simp [hs]), fun hs ht => ?_⟩
  obtain ⟨hdest, hcopy⟩ := hclear hs ht
  have hcd : c.d = s.d := (cycle_latches hw hm he).2.resolve_right fun hb => by simp [hb.dest] at hdest
  rw [hcopy, ← hcd]
  exact ⟨hdest, decodeStage_d_ins hd, rfl⟩

/-- Settles O52: only Execute's turn moves HALTED, on a HALT, and that stood in E before the step. -/
theorem haltedIsSetByHaltAndStays : Obligations.HaltedIsSetByHaltAndStays := by
  intro s t h
  by_cases hne : t.halted = s.halted
  · rw [hne]
    exact ⟨id, fun h h' => (by simp [h] at h')⟩
  obtain ⟨u, hu, htu⟩ := cycle_of_step_changes (·.halted) (fun _ _ => rfl) h hne
  obtain ⟨a, b, c, d, hw, hm, he, hd, rfl⟩ := cycle_eq_next.1 hu
  have htc : t.halted = c.halted := by
    rw [htu, State.endCycle_halted, fetchStage_halted, decodeStage_frame hd]
  have hbs : b.halted = s.halted := by rw [(memoryStage_control hm).1, writebackStage_frame hw]
  obtain ⟨hstay, hset⟩ := executeStage_halted he
  rw [htc, ← hbs]
  refine ⟨hstay, fun hb hc => ?_⟩
  have hi := (hset hc).resolve_left (by simp [hb])
  obtain hbe | hbe := (cycle_latches hw hm he).1
  · rwa [hbe] at hi
  · rw [hbe] at hi
    cases hi

/-- Settles O53: only Decode's turn moves prev_rd, at the dispatch of a flag producer, which stood in D before the
step. -/
theorem prevRdFollowsDispatchedFlagProducer : Obligations.PrevRdFollowsDispatchedFlagProducer := by
  intro s t h hne
  obtain ⟨u, hu, htu⟩ := cycle_of_step_changes (fun v => (v.prevRd, v.e)) (fun _ _ => rfl) h
    fun h => hne (congrArg Prod.fst h)
  obtain ⟨htp, hte⟩ := Prod.mk.injEq _ _ _ _ ▸ htu
  obtain ⟨a, b, c, d, hw, hm, he, hd, rfl⟩ := cycle_eq_next.1 hu
  rw [State.endCycle_prevRd, fetchStage_prevRd] at htp
  rw [State.endCycle_e, fetchStage_e] at hte
  have hcs : c.prevRd = s.prevRd := by
    rw [executeStage_frame he, (memoryStage_control hm).2.1, writebackStage_frame hw]
  obtain ⟨i, rd, hi, hf, hp, hins⟩ := decodeStage_prevRd hd (by rw [← htp, hcs]; exact hne)
  have hcd : c.d = s.d := (cycle_latches hw hm he).2.resolve_right fun hb => by
    obtain hb | hb := hb <;> rw [hi] at hb <;> cases hb <;> cases hf
  rw [htp, hte, hp, hins, ← hcd, hi]
  cases i
  case add _ a b => cases hf; exact ⟨rd, a, b, rfl, .inl rfl, rfl⟩
  case sub _ a b => cases hf; exact ⟨rd, a, b, rfl, .inr (.inl rfl), rfl⟩
  case mul _ a b => cases hf; exact ⟨rd, a, b, rfl, .inr (.inr rfl), rfl⟩
  all_goals cases hf

/-! ### How a step stops -/

/-- Execute stops only with FetchAddressFault, for the FETCHFAULT record in E. -/
theorem executeStage_fault {s : State} {r : Fault} (h : executeStage s = .fault r) :
    s.e.ins = .fetchFault ∧ r = .fetchAddressFault s.e.pc s := by
  rw [executeStage_eq] at h
  split_ifs at h
  cases hi : s.e.ins with
  | instr i => simp [hi] at h
  | fetchFault =>
    simp only [hi] at h
    exact ⟨rfl, by cases h; rfl⟩

theorem executeStage_not_refused (s : State) (r : Refusal) : executeStage s ≠ .refused r := by
  rw [executeStage_eq]
  intro h
  split_ifs at h
  cases hi : s.e.ins <;> simp [hi] at h

/-- Only Memory's and Execute's turns can stop a cycle, and only with a fault. -/
theorem cycle_fault {s : State} {r : Fault} (h : cycle s = .fault r) :
    ∃ a, writebackStage s = .next a ∧
      (memoryStage a = .fault r ∨ ∃ b, memoryStage a = .next b ∧ executeStage b = .fault r) := by
  have hw := writebackStage_eq s
  refine ⟨_, hw, ?_⟩
  simp only [cycle, hw, andThen_next, andThen_eq_fault] at h
  obtain h | ⟨b, hb, h⟩ := h
  · exact .inl h
  · refine .inr ⟨b, hb, ?_⟩
    obtain h | ⟨c, -, h⟩ := h
    · exact h
    · rw [decodeStage_eq] at h
      simp at h

theorem cycle_not_refused (s : State) (r : Refusal) : cycle s ≠ .refused r := by
  intro h
  simp only [cycle, writebackStage_eq, andThen_next, andThen_eq_refused] at h
  obtain h | ⟨b, -, h⟩ := h
  · exact memoryStage_not_refused _ r h
  · obtain h | ⟨c, -, h⟩ := h
    · exact executeStage_not_refused b r h
    · rw [decodeStage_eq] at h
      simp at h

/-- A step stops only as its cycle does. -/
theorem cycle_fault_of_step {s : State} {r : Fault} (h : step s = .fault r) : cycle s = .fault r := by
  unfold step advance at h
  split at h
  · cases h
  · split at h
    · cases h
    · simpa [andThen_eq_fault] using h

theorem step_not_refused (s : State) (r : Refusal) : step s ≠ .refused r := by
  intro h
  unfold step advance at h
  split at h
  · cases h
  · split at h
    · cases h
    · exact cycle_not_refused s r (by simpa [andThen_eq_refused] using h)

/-- Settles O54: a fault is Memory's, for the resident of M, or Execute's, for the record that stood in E before the
step. -/
theorem stepFaultsOnlyAsListed : Obligations.StepFaultsOnlyAsListed := by
  refine fun s => ⟨step_not_refused s, fun addr u h => ?data, fun pc u h => ?fetch⟩
  case data =>
    obtain ⟨a, hw, hm | ⟨b, -, he⟩⟩ := cycle_fault (cycle_fault_of_step h)
    · obtain ⟨hb, hs, hk, hr, hi⟩ := memoryStage_fault hm
      cases hr
      have hout := dmIndex_eq_none.1 hk
      rw [writebackStage_frame hw] at hb hs hi hout ⊢
      exact ⟨rfl, hb, hs, hi, hout, rfl, rfl, rfl⟩
    · cases (executeStage_fault he).2
  case fetch =>
    obtain ⟨a, hw, hm | ⟨b, hm, he⟩⟩ := cycle_fault (cycle_fault_of_step h)
    · cases (memoryStage_fault hm).2.2.2.1
    · obtain ⟨hi, hr⟩ := executeStage_fault he
      have hbe : b.e = s.e := by
        obtain ⟨-, hbe, -⟩ | ⟨-, -, -, hbe, -⟩ := memoryStage_younger hm
        · rw [hbe, writebackStage_frame hw]
        · rw [hbe] at hi
          cases hi
      have hclock : b.clock = s.clock := by rw [(memoryStage_control hm).2.2, writebackStage_frame hw]
      cases hr
      rw [← hbe]
      exact ⟨hi, rfl, hclock, rfl⟩

end Sys2Proof.Machine
end

section
/-! The load-use stall's second cycle (41_decode_hazards.md R161): the LOAD reads and moves to W, Execute clears its stale
copy, and Decode, released by R144, forwards the word from W. -/

namespace Sys2Proof.Machine

theorem budgetSpent_of_unbounded {s : State} (h : s.cfg.cycleLimit = none) : budgetSpent s = false :=
  budgetSpent_eq_false_iff.2 (by simp [h])

/-- P4 releases, whether or not P1 already has (R144). -/
theorem preChecks_of_loadUseOver {s : State} (hs : s.d.stalled = true) (h : s.LoadUseOver) : preChecks s = s.release := by
  rw [preChecks_eq hs]
  by_cases h12 : s.SourcesReady ∨ s.DownstreamFree
  · rw [if_pos h12]
  · rw [if_neg h12, if_neg h.not_branchWaitOver, if_pos h]

theorem memoryAccess_of_load {s : State} {rd rs1 : Reg} {imm : Word} {k : Nat}
    (hi : s.m.ins = .instr (.load rd rs1 imm)) (hk : dmIndex s.cfg s.m.addr = some k) :
    memoryAccess (s.atTurn .memory) = .next ((s.atTurn .memory).setLoaded (s.word k)) := by
  simp only [memoryAccess, State.atTurn_m, hi]
  rw [exec_load_atMemory rfl]
  exact loadAccess_inside hk

theorem memoryAccess_of_store {s : State} {rs1 rs2 : Reg} {imm : Word} {k : Nat}
    (hi : s.m.ins = .instr (.store rs1 rs2 imm)) (hk : dmIndex s.cfg s.m.addr = some k) :
    memoryAccess (s.atTurn .memory) = .next ((s.atTurn .memory).setWord k s.m.v1) := by
  simp only [memoryAccess, State.atTurn_m, hi]
  rw [exec_store_atMemory rfl]
  exact storeAccess_inside hk

/-- Memory's turn of a LOAD inside DM, with no action pending. -/
theorem memoryStage_of_load {s : State} {rd rs1 : Reg} {imm : Word} {k : Nat} (hb : s.m.busy = false)
    (hs : s.e.stalled = false) (hp : s.pend = .none) (hi : s.m.ins = .instr (.load rd rs1 imm))
    (hk : dmIndex s.cfg s.m.addr = some k) :
    memoryStage s = .next ((s.atTurn .memory).setLoaded (s.word k)).copyToWriteback := by
  rw [memoryStage_eq_access hb hs (memoryAccess_of_load hi hk)]
  simp [applyPending, hp]

/-- Decode's turn on the consumer of a load, the stale LOAD being cleared from E and M: its operands come from W and the
register file. -/
theorem decodeStage_of_loadUse {s : State} {i : Instr} (hf : s.cfg.fwd = true) (hi : s.d.ins = .instr i)
    (hb : s.d.busy = false) (hs : s.d.stalled = true) (hr : s.d.reason = some .loadUse) (hlu : s.lu = false)
    (he : s.e = .nop) (hm : s.m = .nop) (hsrc : ∀ p ∈ Instr.sources i, s.isValid p.2 = true ∨ s.w.dest = some p.2) :
    ∃ t, decodeStage s = .next t ∧ t.e.ins = .instr i ∧ t.e.busy = false ∧ t.e.stalled = false ∧ t.m = .nop ∧
      t.lu = false ∧
      ∀ p ∈ Instr.sources i, t.e.operand p.1 = if s.isValid p.2 then s.reg p.2 else s.w.buf := by
  have pre : preChecks (s.atTurn .decode) = (s.atTurn .decode).release :=
    preChecks_of_loadUseOver (s := s.atTurn .decode) hs ⟨hr, hlu⟩
  have miss (slot : Slot) (r : Reg) : ¬HitsExecute i (s.atTurn .decode).release slot r := by
    rintro ⟨hd, -⟩
    rw [State.release_e, State.atTurn_e, he] at hd
    cases hd
  have resolved : Resolved i (s.atTurn .decode).release := fun p hp =>
    (hsrc p hp).imp_right fun hw => ⟨hf, .inr ⟨miss p.1 p.2, .inr hw⟩⟩
  have dispatched : issue i (s.atTurn .decode).release = dispatch i (resolveOperands i (s.atTurn .decode).release) :=
    issue_of_resolved_free resolved (.inl hf) (by rw [State.release_e, State.atTurn_e, he]; rfl)
  have ops := operandsOnly_resolveOperands i (s.atTurn .decode).release
  refine ⟨_, (decodeStage_eq_issue pre hb rfl hi).trans (congrArg _ dispatched), ?_⟩
  rw [dispatch_e, dispatch_m, dispatch_lu, ops.m, ops.lu]
  refine ⟨by rw [Latch.copy_ins, ops.d]; exact hi, rfl, rfl, hm, hlu, fun p hp => ?_⟩
  cases hv : s.isValid p.2 with
  | true => exact resolveOperands_operand_of_valid (s := (s.atTurn .decode).release) hp hv
  | false =>
    have hw : s.w.dest = some p.2 := (hsrc p hp).resolve_left (by simp [hv])
    have hmd : s.m.dest ≠ some p.2 := by simp [hm]
    have value := resolveOperands_operand_of_invalid (s := (s.atTurn .decode).release) hp hv
    rw [forwardedValue_of_not_hitsExecute (miss p.1 p.2)] at value
    exact value.trans ((if_neg hmd).trans (if_pos hw))

/-- The cycle after a load-use stall, up to Fetch's turn, from the state that Writeback leaves. -/
theorem turns_of_loadUse {i : Instr} {rd rs1 : Reg} {imm : Word} {a : State} {k : Nat} (hf : a.cfg.fwd = true)
    (hpend : a.pend = .none) (hmi : a.m.ins = .instr (.load rd rs1 imm)) (hmb : a.m.busy = false)
    (hk : dmIndex a.cfg a.m.addr = some k) (hei : a.e.ins = .instr (.load rd rs1 imm)) (heb : a.e.busy = false)
    (hes : a.e.stalled = false) (hdi : a.d.ins = .instr i) (hdb : a.d.busy = false) (hds : a.d.stalled = true)
    (hdr : a.d.reason = some .loadUse) (hsrc : ∀ p ∈ Instr.sources i, a.isValid p.2 = true ∨ rd = p.2) :
    ∃ b c d, memoryStage a = .next b ∧ executeStage b = .next c ∧ decodeStage c = .next d ∧ d.e.ins = .instr i ∧
      d.e.busy = false ∧ d.e.stalled = false ∧ d.m = .nop ∧ d.lu = false ∧
      ∀ p ∈ Instr.sources i, d.e.operand p.1 = if a.isValid p.2 then a.reg p.2 else a.word k := by
  have hm := memoryStage_of_load hmb hes hpend hmi hk
  have blocked : upstreamBlocked ((a.atTurn .memory).setLoaded (a.word k)).copyToWriteback = true :=
    upstreamBlocked_iff.2 ⟨hds, by simp [hdr], Latch.isBranch_of_instr hei⟩
  have he := executeStage_eq_clearExecute (s := ((a.atTurn .memory).setLoaded (a.word k)).copyToWriteback) heb hes blocked
  have hwd : a.m.dest = some rd := Latch.dest_of_instr hmi
  generalize hc : clearExecute ((a.atTurn .memory).setLoaded (a.word k)).copyToWriteback.atExecute = c at he
  have cleared : c = { a with
      turn := .execute, lu := false, e := .nop, m := .nop, w := { a.m with buf := a.word k }.copy } := by
    rw [← hc]
    simp [clearExecute, State.atTurn, State.setLoaded, State.copyToWriteback, State.copyToMemory, State.atExecute]
  have hreg (r : Reg) : c.reg r = a.reg r := State.reg_congr (by rw [cleared]) r
  have hvalid (r : Reg) : c.isValid r = a.isValid r := State.isValid_congr (by rw [cleared]) r
  have hcd : c.d = a.d := by rw [cleared]
  have hcw : c.w.dest = some rd ∧ c.w.buf = a.word k := by
    rw [cleared]
    exact ⟨hwd, rfl⟩
  obtain ⟨d, hd, facts⟩ := decodeStage_of_loadUse (s := c) (i := i) (by rw [cleared]; exact hf) (by rw [hcd]; exact hdi)
    (by rw [hcd]; exact hdb) (by rw [hcd]; exact hds) (by rw [hcd]; exact hdr) (by rw [cleared]) (by rw [cleared])
    (by rw [cleared]) fun p hp => by
      rw [hvalid, hcw.1]
      exact (hsrc p hp).imp_right (congrArg some)
  simp only [hreg, hvalid, hcw.2] at facts
  exact ⟨_, c, d, hm, he, hd, facts⟩

/-- Settles O21: Writeback cannot re-validate the LOAD's destination, which the LOAD's copy in E still claims, so
`turns_of_loadUse` gives the consumer the loaded word; Fetch's turn keeps E and M. -/
theorem loadUseStallLastsOneCycle : Obligations.LoadUseStallLastsOneCycle := by
  intro i rd rs1 imm s hstop hlimit hf hpend hmi hmb h0 h1 hei heb hes hdi hdb hds hdr hrd _ hsrc
  have hedest : s.e.dest = some rd := Latch.dest_of_instr hei
  obtain ⟨a, hw⟩ : ∃ a, writebackStage s = .next a := ⟨_, writebackStage_eq s⟩
  have frame := writebackStage_frame hw
  have hreg := writebackStage_reg hw
  have hvalid := writebackRevalidatesUnlessClaimed s a hw
  have claimed : a.isValid rd = false := by
    rw [hvalid, if_neg fun h => h.2.2 hedest]
    exact hrd
  have other {r : Reg} (hr : r ≠ rd) (hs : s.isValid r = true ∨ (s.w.busy = false ∧ s.w.dest = some r)) :
      a.isValid r = true := by
    rw [hvalid]
    split
    · rfl
    · next hn =>
      exact hs.resolve_right fun h => hn ⟨h.1, h.2, fun he => hr (Option.some.inj (he.symm.trans hedest))⟩
  have hsrc' : ∀ p ∈ Instr.sources i, a.isValid p.2 = true ∨ rd = p.2 := by
    intro p hp
    by_cases hr : p.2 = rd
    · exact .inr hr.symm
    · exact .inl (other hr ((hsrc p hp).resolve_left hr))
  obtain ⟨b, c, d, hm, he, hd, hins, hbusy, hstalled, hdm, hlu, hops⟩ :=
    turns_of_loadUse (a := a) (i := i) (rd := rd) (rs1 := rs1) (imm := imm) (k := (sint s.m.addr).toNat)
      (by rw [frame]; exact hf) (by rw [frame]; exact hpend) (by rw [frame]; exact hmi) (by rw [frame]; exact hmb)
      (by rw [frame]; exact dmIndex_some h0 h1) (by rw [frame]; exact hei) (by rw [frame]; exact heb)
      (by rw [frame]; exact hes) (by rw [frame]; exact hdi) (by rw [frame]; exact hdb) (by rw [frame]; exact hds)
      (by rw [frame]; exact hdr) hsrc'
  have word : a.word (sint s.m.addr).toNat = s.word (sint s.m.addr).toNat := by rw [frame]; rfl
  refine ⟨_, step_eq_checkComplete hstop (budgetSpent_of_unbounded hlimit) (cycle_eq_next.2 ⟨a, b, c, d, hw, hm, he, hd, rfl⟩), ?_⟩
  simp only [State.checkComplete_e, State.endCycle_e, fetchStage_e, State.checkComplete_m, State.endCycle_m, fetchStage_m,
    State.checkComplete_lu, State.endCycle_lu, fetchStage_lu]
  refine ⟨hins, hbusy, hstalled, .inr (by rw [hdm]; rfl), fun slot hslot => ?consumed, fun p hp hr => ?other, hlu⟩
  case consumed =>
    rw [hops _ hslot, claimed, ← word]
    rfl
  case other => rw [hops p hp, other hr ((hsrc p hp).resolve_left hr), if_pos rfl, hreg]

end Sys2Proof.Machine
end

section
/-! Runs from a drained machine (70_reset_and_hazards.md R332): each stage's turn on a bubble, the cycle in which an
instruction is fetched alone and the one in which it is dispatched. -/

namespace Sys2Proof.Machine

/-! ### Bubbles in the latches -/

/-- A latch that holds a bubble and does not wait. -/
def Latch.Idle (l : Latch) : Prop := Bubble l ∧ l.stalled = false

theorem Latch.Idle.copy {l : Latch} (h : l.Idle) : l.copy.Idle := ⟨h.1, rfl⟩

theorem Latch.idle_nop : Latch.nop.Idle := ⟨.inr rfl, rfl⟩

theorem Latch.idle_fetched_empty (a : Word) : (Latch.fetched (.instr .empty) a).Idle := ⟨.inl rfl, rfl⟩

theorem Latch.Idle.ite {l k : Latch} (hl : l.Idle) (hk : k.Idle) (b : Bool) : (if b then l else k).Idle := by
  cases b
  · exact hk
  · exact hl

/-- A latch whose resident makes no access at its Memory turn. -/
def Latch.NoAccess (l : Latch) : Prop :=
  (∀ rd rs1 imm, l.ins ≠ .instr (.load rd rs1 imm)) ∧ ∀ rs1 rs2 imm, l.ins ≠ .instr (.store rs1 rs2 imm)

theorem Bubble.instr {l : Latch} (h : Bubble l) : ∃ i, (i = .empty ∨ i = .nop) ∧ l.ins = .instr i := by
  obtain h | h := h
  · exact ⟨_, .inl rfl, h⟩
  · exact ⟨_, .inr rfl, h⟩

theorem Bubble.noAccess {l : Latch} (h : Bubble l) : l.NoAccess := by
  obtain h | h := h <;> simp [Latch.NoAccess, h]

/-! ### The turns -/

theorem writebackStage_of_bubble {s : State} (h : Bubble s.w) :
    writebackStage s = .next { s with turn := .writeback, flag := if s.w.busy then s.flag else none } := by
  cases hb : s.w.busy
  case true => simp [writebackStage_eq, hb, State.atTurn]
  case false =>
    obtain h | h := h <;>
      simp [writebackStage_eq, hb, h, retire, Instr.flagDest, Instr.dest, retireBubble, State.setFlag, State.atTurn]

theorem memoryAccess_of_noAccess {s : State} (h : s.m.NoAccess) :
    memoryAccess (s.atTurn .memory) = .next (s.atTurn .memory) := by
  cases hi : s.m.ins with
  | fetchFault => simp [memoryAccess, hi]
  | instr i =>
    simp only [memoryAccess, State.atTurn_m, hi]
    obtain ⟨rd, rs1, imm, rfl, -⟩ | ⟨rs1, rs2, imm, rfl, -⟩ | ⟨-, -, he⟩ := exec_atMemory i (s := s.atTurn .memory) rfl
    · exact absurd hi (h.1 rd rs1 imm)
    · exact absurd hi (h.2 rs1 rs2 imm)
    · exact he

theorem memoryStage_of_noAccess {s : State} (hm : s.m.NoAccess) (hp : s.pend = .none) (he : s.e.stalled = false) :
    memoryStage s = .next { s with turn := .memory, w := if s.m.busy then s.w else s.m.copy } := by
  cases hb : s.m.busy
  case true => simp [memoryStage_eq_hold_of_busy hb, State.atTurn]
  case false =>
    rw [memoryStage_eq_access hb he (memoryAccess_of_noAccess hm)]
    simp [applyPending, hp, State.atTurn, State.copyToWriteback]

theorem executeStage_of_bubble {s : State} (he : s.e.Idle) (hd : s.d.stalled = false) :
    executeStage s = .next { s with turn := .execute, lu := false, m := if s.e.busy then s.m else s.e.copy } := by
  obtain ⟨hi, hs⟩ := he
  have hu : upstreamBlocked s = false := upstreamBlocked_eq_false (by simp [hd])
  cases hb : s.e.busy
  case true => simp [executeStage_eq_hold_of_busy hb, State.atExecute, State.atTurn]
  case false =>
    obtain hi | hi := hi <;>
      simp [executeStage_eq_run hb hs hu hi, run, copyUnlessHeld, hs, State.copyToMemory, State.atExecute, State.atTurn]

/-- A bubble goes on into a free E, and waits behind a held one. -/
theorem issue_of_bubble {i : Instr} (hi : i = .empty ∨ i = .nop) (s : State) :
    issue i s = if s.e.stalled then s.stall .downstream else { s with e := s.d.copy } := by
  have nosource : Instr.sources i = [] := by obtain rfl | rfl := hi <;> rfl
  have nobranch : Instr.isBranch i = false := by obtain rfl | rfl := hi <;> rfl
  have resolved : resolveOperands i s = s := by obtain rfl | rfl := hi <;> rfl
  rw [issue_of_resolved (Resolved.of_valid (by simp [nosource])) (.inr nobranch), resolved]
  cases he : s.e.stalled
  case true => exact dispatchOrDefer_of_held i he
  case false =>
    rw [dispatchOrDefer_of_free i he]
    obtain rfl | rfl := hi <;> rfl

theorem decodeStage_of_bubble {s : State} (hd : s.d.Idle) (he : s.e.stalled = false) :
    decodeStage s = .next { s with turn := .decode, e := if s.d.busy then s.e else s.d.copy } := by
  obtain ⟨hbubble, hs⟩ := hd
  cases hb : s.d.busy
  case true => simp [decodeStage_eq_hold_of_busy hb hs, State.atTurn]
  case false =>
    obtain ⟨i, hi, hins⟩ := hbubble.instr
    have pre : preChecks (s.atTurn .decode) = s.atTurn .decode := preChecks_of_not_stalled hs
    rw [decodeStage_eq_issue pre hb hs hins, issue_of_bubble hi, if_neg (by simp [he])]
    rfl

/-- F takes the record at pc, HALTED being 0. -/
structure State.FetchReady (s : State) : Prop where
  free : s.f.busy = false
  flows : s.f.stalled = false
  notHalted : s.halted = false

theorem fetchStage_of_read {s : State} {r : Resident} (hf : s.FetchReady) (hd : s.d.stalled = false)
    (hr : isRead s s.pc = some r) :
    fetchStage s =
      { s with turn := .fetch, pc := s.pc + 4, f := Latch.fetched r s.pc, d := Latch.fetched r s.pc } := by
  rw [fetchStage_eq_fetchRecord hf.free hf.flows hr, fetchRecord_of_decode_free (s := s.atTurn .fetch) hd]
  simp [State.fetchedLatch, hf.notHalted, State.atTurn]

/-- Whatever F reads, it goes on into a D that is not stalled, or nothing moves. -/
theorem fetchStage_flows {s : State} (hf : s.FetchReady) (hd : s.d.stalled = false) :
    (fetchStage s).f.busy = false ∧ (fetchStage s).f.stalled = false ∧ (fetchStage s).d.stalled = false := by
  cases hr : isRead s s.pc with
  | none =>
    rw [fetchStage_eq_hold_of_reserved hf.free hf.flows hr]
    exact ⟨hf.free, hf.flows, hd⟩
  | some r =>
    rw [fetchStage_of_read hf hd hr]
    exact ⟨rfl, rfl, rfl⟩

theorem isRead_congr {s t : State} (h : SameInputs s t) (a : Word) : isRead t a = isRead s a := by
  simp [isRead, h.1, h.2]

/-- Decode's turn on an instruction that nothing holds back: `DispatchReadsClaimsAndCopies` at the stage. -/
theorem decodeStage_dispatches {i : Instr} {s : State} (hi : s.d.ins = .instr i) (hb : s.d.busy = false)
    (hs : s.d.stalled = false) (he : s.e.stalled = false) (hv : ∀ p ∈ Instr.sources i, s.isValid p.2 = true)
    (hbr : s.cfg.fwd = true ∨ Instr.isBranch i = false) :
    ∃ t, decodeStage s = .next t ∧
      t = { s with turn := .decode, d := t.d, e := t.e, valid := t.valid, prevRd := t.prevRd } ∧
      t.e = t.d.copy ∧ t.d = { s.d with v1 := t.d.v1, v2 := t.d.v2 } ∧
      (∀ slot r, (slot, r) ∈ Instr.sources i → t.e.operand slot = s.reg r) ∧
      ∀ r, t.isValid r = (s.isValid r && decide (Instr.dest i ≠ some r)) := by
  obtain ⟨t, ht, h1, h2, hcopy, hd, hvalid, -, frame⟩ :=
    dispatchReadsClaimsAndCopies i (s.atTurn .decode) rfl he hs hv hbr
  have pre : preChecks (s.atTurn .decode) = s.atTurn .decode := preChecks_of_not_stalled hs
  rw [exec_atDecode i rfl] at ht
  refine ⟨t, (decodeStage_eq_issue pre hb hs hi).trans ht, frame, hcopy, hd, fun slot r hr => ?_, hvalid⟩
  cases slot
  · exact h1 r hr
  · exact h2 r hr

/-! ### Cycles that change the pipeline only -/

/-- In `n` cycles from `s` to `t` nothing retired and no control action was left pending: but for the pipeline and the
data memory the run stands as it stood. -/
structure PipelineOnly (n : Nat) (s t : State) : Prop where
  x : t.x = s.x
  halted : t.halted = s.halted
  done : t.done = s.done
  pend : t.pend = s.pend
  store : t.store = s.store
  cfg : t.cfg = s.cfg
  stop : t.stop = s.stop
  clock : t.clock = s.clock + n

theorem pipelineOnly_refl (s : State) : PipelineOnly 0 s s := ⟨rfl, rfl, rfl, rfl, rfl, rfl, rfl, rfl⟩

theorem PipelineOnly.trans {n k : Nat} {s t u : State} (h : PipelineOnly n s t) (h' : PipelineOnly k t u) :
    PipelineOnly (n + k) s u :=
  ⟨h'.x.trans h.x, h'.halted.trans h.halted, h'.done.trans h.done, h'.pend.trans h.pend, h'.store.trans h.store,
    h'.cfg.trans h.cfg, h'.stop.trans h.stop, by rw [h'.clock, h.clock, Nat.add_assoc]⟩

theorem PipelineOnly.sameInputs {n : Nat} {s t : State} (h : PipelineOnly n s t) : SameInputs s t := ⟨h.store, h.cfg⟩

theorem pipelineOnly_fetchStage (s : State) : PipelineOnly 0 s (fetchStage s) := by
  constructor <;> simp

/-- A cycle whose four turns before Fetch's write nothing but the pipeline. -/
theorem pipelineOnly_of_turns {s d : State} (h : PipelineOnly 0 s d) : PipelineOnly 1 s (fetchStage d).endCycle := by
  have fetched := h.trans (pipelineOnly_fetchStage d)
  exact fetched.trans (k := 1) ⟨rfl, rfl, rfl, rfl, rfl, rfl, rfl, rfl⟩

/-- From a drained machine such a cycle is a step: the run neither stops nor completes. -/
theorem step_of_pipelineOnly {n : Nat} {s₀ s t : State} (h₀ : Drained s₀) (h : PipelineOnly n s₀ s)
    (hc : cycle s = .next t) (ht : PipelineOnly 1 s t) : step s = .next t ∧ PipelineOnly (n + 1) s₀ t := by
  have hstop : s.stop = none := h.stop.trans h₀.running
  have budget : budgetSpent s = false := budgetSpent_of_unbounded (h.cfg ▸ h₀.unbounded)
  have all := h.trans ht
  have incomplete : completed t ≠ true := by
    rw [Ne, completed_iff, all.done, all.store]
    exact h₀.incomplete
  refine ⟨?_, all⟩
  rw [step_eq_checkComplete hstop budget hc, State.checkComplete, if_neg incomplete]

/-- The turns of Writeback and Memory where W is a bubble and M makes no access. -/
theorem back_of_noAccess {s : State} (hw : Bubble s.w) (hm : s.m.NoAccess) (hp : s.pend = .none)
    (he : s.e.stalled = false) :
    andThen (writebackStage s) memoryStage = .next { s with
      turn := .memory
      flag := if s.w.busy then s.flag else none
      w := if s.m.busy then s.w else s.m.copy } := by
  rw [writebackStage_of_bubble hw, andThen_next]
  exact memoryStage_of_noAccess hm hp he

/-- A cycle is the turns of Writeback and Memory, and then those of Execute, Decode and Fetch. -/
theorem cycle_of_turns {s b c d : State} (back : andThen (writebackStage s) memoryStage = .next b)
    (he : executeStage b = .next c) (hd : decodeStage c = .next d) : cycle s = .next (fetchStage d).endCycle := by
  obtain ⟨a, hw, hm⟩ := andThen_eq_next.1 back
  exact cycle_eq_next.2 ⟨a, b, c, d, hw, hm, he, hd, rfl⟩

/-- The cycle whose D is idle after Execute's turn. -/
theorem cycle_of_execute {s b c : State} {r : Resident} (back : andThen (writebackStage s) memoryStage = .next b)
    (execute : executeStage b = .next c) (hd : c.d.Idle) (he : c.e.stalled = false) (hf : c.FetchReady)
    (hr : isRead c c.pc = some r) :
    cycle s = .next { c with
      turn := .writeback
      clock := c.clock + 1
      pc := c.pc + 4
      f := Latch.fetched r c.pc
      d := Latch.fetched r c.pc
      e := if c.d.busy then c.e else c.d.copy } := by
  rw [cycle_of_turns back execute (decodeStage_of_bubble hd he), fetchStage_of_read (r := r)]
  · simp [State.endCycle, State.atTurn]
  · exact ⟨hf.free, hf.flows, hf.notHalted⟩
  · exact hd.2
  · exact hr

/-- The cycle whose E and D are idle after the turns of Writeback and Memory. -/
theorem cycle_of_back {s b : State} {r : Resident} (back : andThen (writebackStage s) memoryStage = .next b)
    (he : b.e.Idle) (hd : b.d.Idle) (hf : b.FetchReady) (hr : isRead b b.pc = some r) :
    cycle s = .next { b with
      turn := .writeback
      clock := b.clock + 1
      lu := false
      pc := b.pc + 4
      f := Latch.fetched r b.pc
      d := Latch.fetched r b.pc
      e := if b.d.busy then b.e else b.d.copy
      m := if b.e.busy then b.m else b.e.copy } :=
  cycle_of_execute (r := r) back (executeStage_of_bubble he hd.2) hd he.2 ⟨hf.free, hf.flows, hf.notHalted⟩ hr

end Sys2Proof.Machine
end

section
/-! One instruction in a drained machine: where it stands after each cycle (70_reset_and_hazards.md R332) and what its first
two cycles do with it, whatever follows it. -/

namespace Sys2Proof.Machine

/-! ### Fetched: the first cycle -/

/-- One cycle from `s₀`, `i` is in D and every other latch but F is idle. -/
structure AtDecode (s₀ : State) (i : Instr) (s : State) : Prop where
  pipe : PipelineOnly 1 s₀ s
  memory : s.dm = s₀.dm
  f : s.f = Latch.fetched (.instr i) s₀.pc
  d : s.d = Latch.fetched (.instr i) s₀.pc
  e : s.e.Idle
  m : s.m.Idle
  w : s.w.Idle
  valid : s.valid = s₀.valid
  pc : s.pc = s₀.pc + 4

theorem Drained.idle {s : State} (h : Drained s) (st : Stage) : (s.latch st).Idle := ⟨h.bubbles st, h.flowing st⟩

theorem NextIs.read {s : State} {i : Instr} (h : NextIs s i) : isRead s s.pc = some (.instr i) := by
  obtain ⟨hok, w, hw, hi⟩ := h
  exact isRead_slot hok hw hi

theorem step_fetches {s₀ : State} {i : Instr} (h : Drained s₀) (hn : NextIs s₀ i) :
    ∃ s, step s₀ = .next s ∧ AtDecode s₀ i s := by
  have hw := h.idle .writeback
  have hm := h.idle .memory
  have he := h.idle .execute
  have hd := h.idle .decode
  have back := back_of_noAccess hw.1 hm.1.noAccess h.noPending he.2
  have hc := cycle_of_back back he hd ⟨h.fetchFree, h.flowing .fetch, h.notHalted⟩ hn.read
  obtain ⟨hs, hp⟩ := step_of_pipelineOnly h (pipelineOnly_refl s₀) hc ⟨rfl, rfl, rfl, rfl, rfl, rfl, rfl, rfl⟩
  exact ⟨_, hs, hp, rfl, rfl, rfl, he.ite hd.copy _, hm.ite he.copy _, hw.ite hm.copy _, rfl, rfl⟩

/-! ### Dispatched: the second cycle -/

/-- Two cycles from `s₀`, `i` is in E with its operands, its destination claimed. -/
structure AtExecute (s₀ : State) (i : Instr) (s : State) : Prop where
  pipe : PipelineOnly 2 s₀ s
  memory : s.dm = s₀.dm
  ins : s.e.ins = .instr i
  fetchedFrom : s.e.pc = some s₀.pc
  free : s.e.busy = false
  flows : s.e.stalled = false
  operands : ∀ slot r, (slot, r) ∈ Instr.sources i → s.e.operand slot = s₀.reg r
  valid : ∀ r, s.isValid r = decide (Instr.dest i ≠ some r)
  m : s.m.Idle
  w : s.w.Idle
  fetch : s.FetchReady
  decodeFlows : s.d.stalled = false

theorem step_dispatches {s₀ s : State} {i : Instr} (h₀ : Drained s₀) (h : AtDecode s₀ i s)
    (hbr : s₀.cfg.fwd = true ∨ Instr.isBranch i = false) :
    ∃ t, step s = .next t ∧ AtExecute s₀ i t ∧
      ∀ r, isRead s s.pc = some r → t.f = Latch.fetched r s.pc ∧ t.d = Latch.fetched r s.pc ∧ t.pc = s.pc + 4 := by
  obtain ⟨pipe, memory, hf, hd, he, hm, hw, hvalid, hpc⟩ := h
  have hpend : s.pend = .none := pipe.pend.trans h₀.noPending
  have hhalted : s.halted = false := pipe.halted.trans h₀.notHalted
  have allValid (r : Reg) : s.isValid r = true := (State.isValid_congr hvalid r).trans (h₀.allValid r)
  have back := back_of_noAccess hw.1 hm.1.noAccess hpend he.2
  generalize hb : ({ s with
    turn := .memory
    flag := if s.w.busy then s.flag else none
    w := if s.m.busy then s.w else s.m.copy } : State) = b at back
  obtain ⟨c, hce, execute⟩ : ∃ c, c = { b with turn := .execute, lu := false, m := if b.e.busy then b.m else b.e.copy } ∧
      executeStage b = .next c :=
    ⟨_, rfl, executeStage_of_bubble (by rw [← hb]; exact he) (by rw [← hb, hd]; rfl)⟩
  have hc : c = { s with
      turn := .execute
      flag := if s.w.busy then s.flag else none
      lu := false
      m := if s.e.busy then s.m else s.e.copy
      w := if s.m.busy then s.w else s.m.copy } := by rw [hce, ← hb]
  have cd : c.d = Latch.fetched (.instr i) s₀.pc := by rw [hc, hd]
  have cvalid (r : Reg) : c.isValid r = true := (State.isValid_congr (by rw [hc]) r).trans (allValid r)
  obtain ⟨d, decode, frame, hcopy, hdd, hops, hdvalid⟩ := decodeStage_dispatches (s := c) (i := i) (by rw [cd]; rfl)
    (by rw [cd]; rfl) (by rw [cd]; rfl) (by rw [hc]; exact he.2) (fun p _ => cvalid p.2)
    (by rw [hc, pipe.cfg]; exact hbr)
  have ready : d.FetchReady := by
    rw [frame, hc, hf]
    exact ⟨rfl, rfl, hhalted⟩
  have dflows : d.d.stalled = false := by rw [hdd, cd]; rfl
  have turns : PipelineOnly 0 s d := by
    constructor <;> rw [frame, hc]
    rfl
  obtain ⟨hstep, all⟩ := step_of_pipelineOnly h₀ pipe (cycle_of_turns back execute decode) (pipelineOnly_of_turns turns)
  obtain ⟨ffree, fflows, fdflows⟩ := fetchStage_flows ready dflows
  have te : (fetchStage d).endCycle.e = d.d.copy := by rw [State.endCycle_e, fetchStage_e, hcopy]
  refine ⟨_, hstep, ⟨all, ?memory, ?ins, ?fetchedFrom, ?free, ?flows, fun slot r hr => ?operands, fun r => ?valid, ?m, ?w,
    ⟨ffree, fflows, ?notHalted⟩, fdflows⟩, fun r hr => ?read⟩
  case memory => rw [State.endCycle_dm, fetchStage_dm, frame, hc, memory]
  case ins => rw [te, hdd, cd]; rfl
  case fetchedFrom => rw [te, hdd, cd]; rfl
  case free => rw [te]; rfl
  case flows => rw [te]; rfl
  case operands =>
    rw [State.endCycle_e, fetchStage_e, hops slot r hr]
    exact State.reg_congr (by rw [hc, pipe.x]) r
  case valid =>
    rw [State.isValid_congr (State.endCycle_valid _), State.isValid_congr (fetchStage_valid d), hdvalid, cvalid]
    rfl
  case m =>
    rw [State.endCycle_m, fetchStage_m, frame, hc]
    exact hm.ite he.copy _
  case w =>
    rw [State.endCycle_w, fetchStage_w, frame, hc]
    exact hw.ite hm.copy _
  case notHalted => exact all.halted.trans h₀.notHalted
  case read =>
    have dpc : d.pc = s.pc := by rw [frame, hc]
    have dread : isRead d d.pc = some r := by rw [isRead_congr turns.sameInputs, dpc, hr]
    rw [fetchStage_of_read ready dflows dread, dpc]
    exact ⟨rfl, rfl, rfl⟩

theorem steps_succ {n : Nat} {s t : State} (h : step s = .next t) : steps (n + 1) s = steps n t := by
  rw [steps, h, andThen_next]

theorem steps_add (n k : Nat) (s : State) : steps (n + k) s = andThen (steps n s) (steps k) := by
  induction n generalizing s with
  | zero => rw [Nat.zero_add, steps, andThen_next]
  | succ n ih =>
    rw [Nat.succ_add, steps, steps]
    cases step s with
    | next t => exact ih t
    | fault f => rfl
    | refused m => rfl

theorem steps_one {s t : State} (h : step s = .next t) : steps 1 s = .next t := by
  rw [steps_succ h, steps]

/-- Two steps from a drained machine bring the instruction at pc into E. -/
theorem steps_two_dispatches {s₀ : State} {i : Instr} (h₀ : Drained s₀) (hn : NextIs s₀ i)
    (hbr : s₀.cfg.fwd = true ∨ Instr.isBranch i = false) : ∃ b, steps 2 s₀ = .next b ∧ AtExecute s₀ i b := by
  obtain ⟨a, ha, hdecode⟩ := step_fetches h₀ hn
  obtain ⟨b, hb, hexecute, -⟩ := step_dispatches h₀ hdecode hbr
  exact ⟨b, (steps_succ ha).trans (steps_one hb), hexecute⟩

/-- The turns of Writeback and Memory ahead of the instruction's Execute turn, and that turn. -/
theorem AtExecute.turns {s₀ s : State} {i : Instr} (h₀ : Drained s₀) (h : AtExecute s₀ i s) :
    ∃ c, andThen (writebackStage s) memoryStage = .next c ∧ c.e = s.e ∧ c.d = s.d ∧ c.f = s.f ∧ c.pc = s.pc ∧
      c.valid = s.valid ∧ c.dm = s.dm ∧ c.m = s.m ∧ c.w.Idle ∧ PipelineOnly 0 s c ∧
      executeStage c = .next (copyUnlessHeld (run i c.atExecute)) := by
  obtain ⟨c, hc, back⟩ : ∃ c, c = { s with
      turn := .memory
      flag := if s.w.busy then s.flag else none
      w := if s.m.busy then s.w else s.m.copy } ∧ andThen (writebackStage s) memoryStage = .next c :=
    ⟨_, rfl, back_of_noAccess h.w.1 h.m.1.noAccess (h.pipe.pend.trans h₀.noPending) h.flows⟩
  have he : c.e = s.e := by rw [hc]
  have hd : c.d = s.d := by rw [hc]
  have unblocked : upstreamBlocked c = false := upstreamBlocked_eq_false fun hs => by simp [hd, h.decodeFlows] at hs
  refine ⟨c, back, he, hd, by rw [hc], by rw [hc], by rw [hc], by rw [hc], by rw [hc], ?w, ?pipe,
    executeStage_eq_run (he ▸ h.free) (he ▸ h.flows) unblocked (he ▸ h.ins)⟩
  case w =>
    rw [hc]
    exact h.w.ite h.m.copy _
  case pipe =>
    constructor <;> rw [hc]
    rfl

/-- Settles O11: `steps_two_dispatches` and the turns ahead of Execute's. -/
theorem fetchedInstructionReachesExecute : Obligations.FetchedInstructionReachesExecute := by
  intro i s h₀ hn hbr
  obtain ⟨b, hb, h⟩ := steps_two_dispatches h₀ hn hbr
  obtain ⟨c, back, he, -, -, -, -, -, -, -, -, execute⟩ := h.turns h₀
  refine ⟨b, hb, h.ins, h.fetchedFrom, h.free, h.flows, h.operands .rs1, h.operands .rs2, h.valid,
    State.reg_congr h.pipe.x, State.word_congr h.memory, h.pipe.clock, c, back, he, ?_⟩
  rw [execute, exec_atExecute i rfl]
  rfl

end Sys2Proof.Machine
end

section
/-! A JUMP in a drained machine: its third and fourth cycle, whatever instructions stand behind it
(42_execute_memory_writeback.md R202). -/

namespace Sys2Proof.Machine

/-- Three cycles from `s₀`, a JUMP to `a` is in M with its target pending. What follows it may have claimed the destination
of the latch E and no other. -/
structure JumpPending (s₀ : State) (a : Word) (s : State) : Prop where
  running : s.stop = none
  inputs : SameInputs s₀ s
  x : s.x = s₀.x
  memory : s.dm = s₀.dm
  notHalted : s.halted = false
  pend : s.pend = .jump a
  m : s.m.NoAccess
  free : s.m.busy = false
  w : Bubble s.w
  flows : s.e.stalled = false
  claims : ∀ r, s.isValid r = true ∨ s.e.dest = some r

/-- A valid register is, after Decode's turn, valid still or the claim of what E then holds. -/
theorem decodeStage_claims {s t : State} {r : Reg} (h : decodeStage s = .next t) (hv : s.isValid r = true) :
    t.isValid r = true ∨ t.e.dest = some r := by
  by_cases changed : t.isValid r = s.isValid r
  · exact .inl (changed.trans hv)
  · obtain ⟨hdest, -, copied⟩ := (claimOnlyAtDispatch s t h).2 r changed
    have same : t.e.dest = s.d.dest := by
      rw [copied, Latch.dest, Latch.copy_ins, decodeStage_d_ins h, Latch.dest]
    exact .inr (same.trans hdest)

/-- Whatever stands behind the JUMP, its turns leave E free and claim at most what E then holds. -/
theorem step_jumps {s₀ s : State} {rs1 : Reg} {imm : Word} (h₀ : Drained s₀) (h : AtExecute s₀ (.jump rs1 imm) s) :
    ∃ t, step s = .next t ∧ JumpPending s₀ (s₀.reg rs1 + imm) t := by
  obtain ⟨b, back, he, hd, -, -, hvalid, hdm, -, hw, pipe, execute⟩ := h.turns h₀
  have target : b.e.v1 = s₀.reg rs1 := by
    rw [he]
    exact h.operands .rs1 rs1 (by simp [Instr.sources])
  obtain ⟨c, hc, execute⟩ : ∃ c, c = { b with
      turn := .execute, lu := false, pend := .jump (s₀.reg rs1 + imm), m := b.e.copy } ∧ executeStage b = .next c := by
    refine ⟨_, rfl, ?_⟩
    rw [execute, ← target]
    exact congrArg _ (copyUnlessHeld_of_free (he ▸ h.flows))
  obtain ⟨d, decode⟩ : ∃ d, decodeStage c = .next d := ⟨_, decodeStage_eq c⟩
  have frame := decodeStage_frame decode
  have all := h.pipe.trans pipe
  have flows : d.e.stalled ≠ true := fun hds => by
    have held := decodeStage_e_stalled decode hds
    rw [hc] at held
    simp [he, h.flows] at held
  have cvalid (r : Reg) : c.isValid r = true := by
    rw [State.isValid_congr (t := c) (s := s) (by rw [hc]; exact hvalid), h.valid]
    rfl
  have incomplete : completed (fetchStage d).endCycle ≠ true := by
    have done : (fetchStage d).endCycle.done = s₀.done := by
      rw [State.endCycle_done, fetchStage_done, frame, hc, all.done]
    have store : (fetchStage d).endCycle.store = s₀.store := by
      rw [State.endCycle_store, fetchStage_store, frame, hc, all.store]
    rw [Ne, completed_iff, done, store]
    exact h₀.incomplete
  have budget : budgetSpent s = false := budgetSpent_of_unbounded (h.pipe.cfg ▸ h₀.unbounded)
  refine ⟨(fetchStage d).endCycle, ?step, ?running, ⟨?store, ?cfg⟩, ?x, ?memory, ?notHalted, ?pend, ?m, ?free, ?w, ?flows,
    fun r => ?claims⟩
  case step =>
    rw [step_eq_checkComplete (h.pipe.stop.trans h₀.running) budget (cycle_of_turns back execute decode),
      State.checkComplete, if_neg incomplete]
  case running => rw [State.endCycle_stop, fetchStage_stop, frame, hc, all.stop, h₀.running]
  case store => rw [State.endCycle_store, fetchStage_store, frame, hc, all.store]
  case cfg => rw [State.endCycle_cfg, fetchStage_cfg, frame, hc, all.cfg]
  case x => rw [State.endCycle_x, fetchStage_x, frame, hc, all.x]
  case memory => rw [State.endCycle_dm, fetchStage_dm, frame, hc, hdm, h.memory]
  case notHalted => rw [State.endCycle_halted, fetchStage_halted, frame, hc, all.halted, h₀.notHalted]
  case pend => rw [State.endCycle_pend, fetchStage_pend, frame, hc]
  case m =>
    have hm : (fetchStage d).endCycle.m.ins = .instr (.jump rs1 imm) := by
      rw [State.endCycle_m, fetchStage_m, frame, hc]
      exact he ▸ h.ins
    exact ⟨by rw [hm]; nofun, by rw [hm]; nofun⟩
  case free => rw [State.endCycle_m, fetchStage_m, frame, hc]; rfl
  case w => rw [State.endCycle_w, fetchStage_w, frame, hc]; exact hw.1
  case flows =>
    rw [State.endCycle_e, fetchStage_e]
    exact eq_false_of_ne_true flows
  case claims =>
    rw [State.isValid_congr (State.endCycle_valid _), State.isValid_congr (fetchStage_valid d), State.endCycle_e,
      fetchStage_e]
    exact decodeStage_claims decode (cvalid r)

/-- The fourth cycle: the Memory turn takes the jump, and Fetch reads at its target. -/
theorem step_lands {s₀ s : State} {a : Word} {r : Resident} (h₀ : Drained s₀) (h : JumpPending s₀ a s)
    (hr : isRead s₀ a = some r) :
    ∃ t, step s = .next t ∧ t.pc = a + 4 ∧ t.f.ins = r ∧ t.f.pc = some a ∧ t.d.ins = r ∧
      t.done = BitVec.ofInt 32 (jumpCount s₀.cfg a) ∧ t.x = s₀.x ∧ (∀ q, t.isValid q = true) ∧ t.dm = s₀.dm := by
  obtain ⟨u, hu, writeback⟩ : ∃ u, u = { s with turn := .writeback, flag := if s.w.busy then s.flag else none } ∧
      writebackStage s = .next u := ⟨_, rfl, writebackStage_of_bubble h.w⟩
  have memory : memoryStage u = .next (applyPending (u.atTurn .memory)).copyToWriteback :=
    memoryStage_eq_access (hu ▸ h.free) (hu ▸ h.flows) (memoryAccess_of_noAccess (hu ▸ h.m))
  generalize hb : (applyPending (u.atTurn .memory)).copyToWriteback = b at memory
  obtain ⟨hf, hd, he, -, -, hpc, hdone, hvalid, hx, -⟩ := memoryStage_of_jump (a := a) (hu ▸ h.free) (by rw [hu, h.pend])
    memory
  have halted : b.halted = false := by rw [← hb, ← h.notHalted, hu]; simp
  have inputs : SameInputs s₀ b := ⟨by rw [← hb, ← h.inputs.1, hu]; simp, by rw [← hb, ← h.inputs.2, hu]; simp⟩
  have words : b.dm = s₀.dm := by rw [← hb, ← h.memory, hu]; simp
  have valid (q : Reg) : b.isValid q = true := by
    have uvalid : u.isValid q = s.isValid q := State.isValid_congr (by rw [hu]) q
    have ue : u.e = s.e := by rw [hu]
    rw [hvalid, uvalid, ue]
    obtain hq | hq := h.claims q
    · simp [hq]
    · simp [hq]
  have budget : budgetSpent s = false := budgetSpent_of_unbounded (h.inputs.2 ▸ h₀.unbounded)
  have back : andThen (writebackStage s) memoryStage = .next b := by rw [writeback, andThen_next, memory]
  have hc := cycle_of_back (r := r) back (he ▸ Latch.idle_nop) (hd ▸ Latch.idle_nop) ⟨hf ▸ rfl, hf ▸ rfl, halted⟩
    (by rw [isRead_congr inputs, hpc, hr])
  refine ⟨_, step_eq_checkComplete h.running budget hc, ?_⟩
  simp only [State.checkComplete_pc, State.checkComplete_f, State.checkComplete_d, State.checkComplete_done,
    State.checkComplete_x, State.checkComplete_dm, State.isValid_congr (State.checkComplete_valid _)]
  exact ⟨by rw [hpc], rfl, by rw [← hpc]; rfl, rfl, by rw [hdone, hu, h.inputs.2], by rw [hx, hu, h.x], valid, words⟩

/-- Settles O59: fetched and dispatched as any instruction, pending in the third cycle, taken in the fourth. -/
theorem jumpReachesItsTarget : Obligations.JumpReachesItsTarget := by
  intro rs1 imm r s h₀ hn hr
  obtain ⟨b, hb, executing⟩ := steps_two_dispatches h₀ hn (.inr rfl)
  obtain ⟨c, hc, pending⟩ := step_jumps h₀ executing
  obtain ⟨t, ht, hpc, hf, hfpc, hd, hdone, hx, hvalid, hdm⟩ := step_lands h₀ pending hr
  rw [jumpCount_eq] at hdone
  refine ⟨t, ?steps, hpc, hf, hfpc, hd, hdone, State.reg_congr hx, hvalid, State.word_congr hdm⟩
  rw [show 4 = 2 + 2 from rfl, steps_add, hb, andThen_next, steps_succ hc, steps_one ht]

end Sys2Proof.Machine
end

section
/-! A register instruction, a LOAD or a STORE that is the last of the store, in a drained machine: through Execute, Memory
and Writeback with bubbles ahead of it and behind it (70_reset_and_hazards.md R332). -/

namespace Sys2Proof.Machine

/-! ### Past the end of the store -/

/-- The `k` addresses from pc on read EMPTY. -/
def EmptyAhead (k : Nat) (s : State) : Prop :=
  ∀ j < k, isRead s (s.pc + BitVec.ofNat 32 (4 * j)) = some (.instr .empty)

theorem EmptyAhead.read {k : Nat} {s : State} (h : EmptyAhead (k + 1) s) : isRead s s.pc = some (.instr .empty) := by
  simpa using h 0 (Nat.succ_pos k)

theorem EmptyAhead.next {k : Nat} {s t : State} (h : EmptyAhead (k + 1) s) (hi : SameInputs s t) (hpc : t.pc = s.pc + 4) :
    EmptyAhead k t := by
  intro j hj
  have step : t.pc + BitVec.ofNat 32 (4 * j) = s.pc + BitVec.ofNat 32 (4 * (j + 1)) := by
    rw [hpc, Nat.mul_succ]
    bv_omega
  rw [isRead_congr hi, step]
  exact h (j + 1) (by omega)

/-- Behind the last slot, as far as the addresses do not wrap. -/
theorem LastIs.emptyAhead {s t : State} {i : Instr} (h : LastIs s i) (hb : s.pc.toNat + 32 < 2 ^ 32)
    (hi : SameInputs s t) (hpc : t.pc = s.pc + 4) : EmptyAhead 4 t := by
  intro j hj
  obtain ⟨⟨hok, -⟩, hlen⟩ := h
  obtain ⟨hbase, haligned⟩ := addressOk_iff.1 hok
  have address : (t.pc + BitVec.ofNat 32 (4 * j)).toNat = s.pc.toNat + 4 * (j + 1) := by
    rw [hpc]
    bv_omega
  rw [isRead_congr hi]
  refine isRead_past_end (addressOk_iff.2 ?_) ?_
  · rw [address]
    omega
  · rw [hlen, storeIndex, storeIndex, address]
    omega

/-- Nothing but bubbles follows: D holds one, and so will the next `k` reads of F. -/
structure EmptyBehind (k : Nat) (s : State) : Prop where
  d : s.d.Idle
  free : s.d.busy = false
  fetch : s.FetchReady
  ahead : EmptyAhead k s

/-- F and D after F has read EMPTY. -/
theorem EmptyBehind.next {k : Nat} {s t : State} {a : Word} (h : EmptyBehind (k + 1) s) (hi : SameInputs s t)
    (hhalted : t.halted = s.halted) (hpc : t.pc = s.pc + 4) (hf : t.f = Latch.fetched (.instr .empty) a)
    (hd : t.d = Latch.fetched (.instr .empty) a) : EmptyBehind k t :=
  ⟨hd ▸ Latch.idle_fetched_empty a, hd ▸ rfl, ⟨hf ▸ rfl, hf ▸ rfl, hhalted.trans h.fetch.notHalted⟩, h.ahead.next hi hpc⟩

/-- Two steps bring the last instruction into E, with nothing but bubbles behind it. -/
theorem steps_two_dispatches_last {s₀ : State} {i : Instr} (h₀ : Drained s₀) (hl : LastIs s₀ i)
    (hb : s₀.pc.toNat + 32 < 2 ^ 32) (hbr : Instr.isBranch i = false) :
    ∃ t, steps 2 s₀ = .next t ∧ AtExecute s₀ i t ∧ EmptyBehind 3 t := by
  obtain ⟨a, ha, decoding⟩ := step_fetches h₀ hl.1
  have ahead := hl.emptyAhead hb decoding.pipe.sameInputs decoding.pc
  obtain ⟨t, ht, executing, fetched⟩ := step_dispatches h₀ decoding (.inr hbr)
  obtain ⟨hf, hd, hpc⟩ := fetched _ ahead.read
  have inputs : SameInputs a t :=
    ⟨executing.pipe.store.trans decoding.pipe.store.symm, executing.pipe.cfg.trans decoding.pipe.cfg.symm⟩
  exact ⟨t, (steps_succ ha).trans (steps_one ht), executing, hd ▸ Latch.idle_fetched_empty _, hd ▸ rfl, executing.fetch,
    ahead.next inputs hpc⟩

/-! ### The Execute turn -/

/-- No opcode rule replaces the instruction in E. -/
theorem run_e_ins (i : Instr) (s : State) : (run i s).e.ins = s.e.ins := by
  cases i
  case bz => exact congrArg Latch.ins (afterTest_e s)
  case bnz => exact congrArg Latch.ins (afterTest_e s)
  all_goals rfl

/-- `i`, `n` cycles from `s₀`, has been executed and is in M, with bubbles ahead of it and behind it. -/
structure AtMemory (n : Nat) (s₀ : State) (i : Instr) (s : State) : Prop where
  pipe : PipelineOnly n s₀ s
  memory : s.dm = s₀.dm
  ins : s.m.ins = .instr i
  free : s.m.busy = false
  e : s.e.Idle
  executeFree : s.e.busy = false
  w : Bubble s.w
  behind : EmptyBehind 2 s
  valid : ∀ r, s.isValid r = decide (Instr.dest i ≠ some r)

/-- The third cycle of an instruction other than a MUL: its opcode rule runs on the latch it was dispatched into, and M
gets the result. -/
theorem step_executes {s₀ s : State} {i : Instr} (h₀ : Drained s₀) (h : AtExecute s₀ i s) (hq : EmptyBehind 3 s)
    (hi : Instr.IsData i) (hmul : ∀ rd rs1 rs2, i ≠ .mul rd rs1 rs2) :
    ∃ b t, step s = .next t ∧ AtMemory 3 s₀ i t ∧ b.e = s.e ∧ b.m.dest = none ∧ b.w.dest = none ∧
      t.m = (run i b).e.copy := by
  obtain ⟨b, back, he, hd, hf, hpc, hvalid, hdm, hm, hw, pipe, execute⟩ := h.turns h₀
  have flows : (run i b.atExecute).e.stalled = false := (run_e_stalled hmul _).trans (he ▸ h.flows)
  have ins : (run i b.atExecute).e.ins = .instr i := (run_e_ins i _).trans (he ▸ h.ins)
  rw [copyUnlessHeld_of_free flows] at execute
  obtain ⟨E, D, hrun⟩ : ∃ E D, run i b.atExecute = { b.atExecute with e := E, draws := D } := ⟨_, _, run_of_isData hi _⟩
  obtain ⟨c, hc, execute⟩ : ∃ c, c = { b with turn := .execute, lu := false, e := E, m := E.copy, draws := D } ∧
      executeStage b = .next c := ⟨_, rfl, by rw [execute, hrun]; rfl⟩
  have hE : E = (run i b.atExecute).e := by rw [hrun]
  have cd : c.d = s.d := by rw [hc, hd]
  have cpc : c.pc = s.pc := by rw [hc, hpc]
  have execution : PipelineOnly 0 b c := by
    constructor <;> rw [hc]
    rfl
  have turns : PipelineOnly 0 s c := pipe.trans execution
  have hcycle := cycle_of_execute (r := .instr .empty) back execute (cd ▸ hq.d) (by rw [hc, hE]; exact flows)
    ⟨by rw [hc, hf]; exact h.fetch.free, by rw [hc, hf]; exact h.fetch.flows, turns.halted.trans h.fetch.notHalted⟩
    (by rw [isRead_congr turns.sameInputs, cpc, hq.ahead.read])
  generalize ht : ({ c with
      turn := .writeback
      clock := c.clock + 1
      pc := c.pc + 4
      f := Latch.fetched (.instr .empty) c.pc
      d := Latch.fetched (.instr .empty) c.pc
      e := if c.d.busy then c.e else c.d.copy } : State) = t at hcycle
  have rest : PipelineOnly 1 c t := by constructor <;> rw [← ht]
  have hone : PipelineOnly 1 s t := turns.trans rest
  obtain ⟨hstep, all⟩ := step_of_pipelineOnly h₀ h.pipe hcycle hone
  have tm : t.m = (run i b.atExecute).e.copy := by rw [← ht, hc, hE]
  have te : t.e = s.d.copy := by rw [← ht, if_neg (by simp [cd, hq.free]), cd]
  refine ⟨b.atExecute, t, hstep, ⟨all, ?memory, by rw [tm]; exact ins, by rw [tm]; rfl,
    te ▸ hq.d.copy, te ▸ rfl, ?w, ?behind, fun r => ?valid⟩, he, Bubble.dest (hm ▸ h.m.1), hw.1.dest, tm⟩
  case memory => rw [← ht, hc, ← h.memory, ← hdm]
  case w =>
    rw [← ht, hc]
    exact hw.1
  case behind =>
    exact hq.next (a := c.pc) hone.sameInputs hone.halted (by rw [← ht, cpc]) (by rw [← ht]) (by rw [← ht])
  case valid => rw [← h.valid, State.isValid_congr (s := s) (by rw [← ht, hc, hvalid])]

/-- Three steps bring the executed instruction into M. -/
theorem steps_three_executes {i : Instr} {s : State} (h₀ : Drained s) (hl : LastIs s i) (hb : s.pc.toNat + 32 < 2 ^ 32)
    (hi : Instr.IsData i) (hbr : Instr.isBranch i = false) (hmul : ∀ rd rs1 rs2, i ≠ .mul rd rs1 rs2) :
    ∃ b t, steps 3 s = .next t ∧ AtMemory 3 s i t ∧ b.m.dest = none ∧ b.w.dest = none ∧
      (∀ slot r, (slot, r) ∈ Instr.sources i → b.e.operand slot = s.reg r) ∧ t.m = (run i b).e.copy := by
  obtain ⟨a, ha, executing, behind⟩ := steps_two_dispatches_last h₀ hl hb hbr
  obtain ⟨b, t, ht, inMemory, he, hm, hw, hrun⟩ := step_executes h₀ executing behind hi hmul
  refine ⟨b, t, ?_, inMemory, hm, hw, fun slot r hr => he ▸ executing.operands slot r hr, hrun⟩
  rw [show 3 = 2 + 1 from rfl, steps_add, ha, andThen_next, steps_one ht]

end Sys2Proof.Machine
end

section
/-! A MUL alone: the cycle in which it holds E, and the one in which it is released (42_execute_memory_writeback.md R183,
R184). -/

namespace Sys2Proof.Machine

/-! ### The turns around a held E -/

theorem memoryStage_of_held {s : State} (hp : s.pend = .none) (he : s.e.stalled = true) :
    memoryStage s = .next { s with
      turn := .memory
      m := if s.m.busy then s.m else .nop
      w := if s.m.busy then s.w else .nop } := by
  cases hb : s.m.busy
  case true => simp [memoryStage_eq_hold_of_busy hb, State.atTurn]
  case false =>
    rw [memoryStage_eq_dropStale hb he]
    simp [applyPending, hp, State.atTurn, State.dropStale, State.copyToWriteback]

/-- A bubble in D waits behind a held E (R159). -/
theorem decodeStage_of_bubble_held {s : State} (hd : s.d.Idle) (hb : s.d.busy = false) (he : s.e.stalled = true) :
    decodeStage s = .next { s with turn := .decode, d := { s.d with stalled := true, reason := some .downstream } } := by
  obtain ⟨i, hi, hins⟩ := hd.1.instr
  rw [decodeStage_eq_issue (preChecks_of_not_stalled hd.2) hb hd.2 hins, issue_of_bubble hi, if_pos (by simp [he])]
  rfl

/-- It goes on once E is released (R142). -/
theorem decodeStage_of_bubble_released {s : State} (hd : Bubble s.d) (hb : s.d.busy = false) (hs : s.d.stalled = true)
    (hr : s.d.reason = some .downstream) (he : s.e.stalled = false) :
    decodeStage s = .next { s with
      turn := .decode
      d := { s.d with stalled := false, reason := none }
      e := s.d.copy } := by
  obtain ⟨i, hi, hins⟩ := hd.instr
  have pre : preChecks (s.atTurn .decode) = (s.atTurn .decode).release := by
    rw [preChecks_eq (s := s.atTurn .decode) hs, if_pos (.inr ⟨hr, he⟩)]
  rw [decodeStage_eq_issue pre hb rfl hins, issue_of_bubble hi, if_neg (by simp [he])]
  rfl

/-- Behind a D that waits, F keeps what it reads (R111). -/
theorem fetchStage_of_read_held {s : State} {r : Resident} (hf : s.FetchReady) (hd : s.d.stalled = true)
    (hr : isRead s s.pc = some r) :
    fetchStage s = { s with
      turn := .fetch
      pc := s.pc + 4
      f := { Latch.fetched r s.pc with stalled := true, reason := some .deferral } } := by
  rw [fetchStage_eq_fetchRecord hf.free hf.flows hr, fetchRecord_of_decode_stalled (s := s.atTurn .fetch) hd]
  simp [State.fetchedLatch, hf.notHalted, State.atTurn]

/-! ### The two cycles -/

/-- Three cycles from `s₀`, a MUL holds E with its product `v`, and the bubbles behind it wait in D and F. -/
structure MulHeld (s₀ : State) (i : Instr) (v : Word) (s : State) : Prop where
  pipe : PipelineOnly 3 s₀ s
  memory : s.dm = s₀.dm
  ins : s.e.ins = .instr i
  free : s.e.busy = false
  held : s.e.stalled = true
  product : s.e.buf = v
  w : Bubble s.w
  d : Bubble s.d
  decodeFree : s.d.busy = false
  waits : s.d.stalled = true
  reason : s.d.reason = some .downstream
  f : ∃ a, s.f = { Latch.fetched (.instr .empty) a with stalled := true, reason := some .deferral }
  ahead : EmptyAhead 2 s
  valid : ∀ r, s.isValid r = decide (Instr.dest i ≠ some r)

theorem step_holds {s₀ s : State} {rd rs1 rs2 : Reg} (h₀ : Drained s₀) (h : AtExecute s₀ (.mul rd rs1 rs2) s)
    (hq : EmptyBehind 3 s) :
    ∃ t, step s = .next t ∧ MulHeld s₀ (.mul rd rs1 rs2) (s₀.reg rs1 * s₀.reg rs2) t := by
  obtain ⟨b, back, he, hd, hf, hpc, hvalid, hdm, hm, hw, pipe, execute⟩ := h.turns h₀
  have product : b.e.v1 * b.e.v2 = s₀.reg rs1 * s₀.reg rs2 := by
    have h1 : s.e.v1 = s₀.reg rs1 := h.operands .rs1 rs1 (by simp [Instr.sources])
    have h2 : s.e.v2 = s₀.reg rs2 := h.operands .rs2 rs2 (by simp [Instr.sources])
    rw [he, h1, h2]
  obtain ⟨c, hc, execute⟩ : ∃ c, c = { b with
      turn := .execute, lu := false, e := { b.e with buf := s₀.reg rs1 * s₀.reg rs2, stalled := true } } ∧
      executeStage b = .next c := by
    refine ⟨_, rfl, ?_⟩
    rw [execute, ← product]
    exact congrArg _ (copyUnlessHeld_of_held rfl)
  have cd : c.d = s.d := by rw [hc, hd]
  have cpc : c.pc = s.pc := by rw [hc, hpc]
  obtain ⟨d, hdecoded, decode⟩ : ∃ d, d = { c with
      turn := .decode, d := { c.d with stalled := true, reason := some .downstream } } ∧ decodeStage c = .next d :=
    ⟨_, rfl, decodeStage_of_bubble_held (cd ▸ hq.d) (cd ▸ hq.free) (by rw [hc])⟩
  have execution : PipelineOnly 0 b c := by
    constructor <;> rw [hc]
    rfl
  have decoding : PipelineOnly 0 c d := by
    constructor <;> rw [hdecoded]
    rfl
  have turns : PipelineOnly 0 s d := (pipe.trans execution).trans decoding
  have dpc : d.pc = s.pc := by rw [hdecoded, cpc]
  have df : d.f = s.f := by rw [hdecoded, hc, hf]
  have fetch := fetchStage_of_read_held (s := d) (r := .instr .empty)
    ⟨df ▸ h.fetch.free, df ▸ h.fetch.flows, turns.halted.trans h.fetch.notHalted⟩ (by rw [hdecoded])
    (by rw [isRead_congr turns.sameInputs, dpc, hq.ahead.read])
  obtain ⟨hstep, all⟩ := step_of_pipelineOnly h₀ h.pipe (cycle_of_turns back execute decode) (pipelineOnly_of_turns turns)
  have after : (fetchStage d).endCycle = { d with
      turn := .writeback
      clock := d.clock + 1
      pc := s.pc + 4
      f := { Latch.fetched (.instr .empty) s.pc with stalled := true, reason := some .deferral } } := by
    rw [fetch, dpc]
    rfl
  generalize (fetchStage d).endCycle = t at hstep all after
  have te : t.e = { s.e with buf := s₀.reg rs1 * s₀.reg rs2, stalled := true } := by rw [after, hdecoded, hc, he]
  have td : t.d = { s.d with stalled := true, reason := some .downstream } := by rw [after, hdecoded, cd]
  have inputs : SameInputs s t :=
    ⟨all.store.trans h.pipe.store.symm, all.cfg.trans h.pipe.cfg.symm⟩
  refine ⟨t, hstep, all, ?memory, by rw [te]; exact h.ins, by rw [te]; exact h.free, by rw [te], by rw [te], ?w,
    by rw [td]; exact hq.d.1, by rw [td]; exact hq.free, by rw [td], by rw [td], ⟨s.pc, by rw [after]⟩,
    hq.ahead.next inputs (by rw [after]), fun r => ?valid⟩
  case memory => rw [after, hdecoded, hc, hdm, h.memory]
  case w =>
    rw [after, hdecoded, hc]
    exact hw.1
  case valid => rw [← h.valid, State.isValid_congr (s := s) (by rw [after, hdecoded, hc, hvalid])]

/-- The fourth cycle: E is released, M gets the product, and F catches up. -/
theorem step_finishes {s₀ s : State} {i : Instr} {v : Word} (h₀ : Drained s₀) (h : MulHeld s₀ i v s) :
    ∃ t, step s = .next t ∧ AtMemory 4 s₀ i t ∧ t.m.buf = v := by
  obtain ⟨a, hf⟩ := h.f
  obtain ⟨u, hu, writeback⟩ : ∃ u, u = { s with turn := .writeback, flag := if s.w.busy then s.flag else none } ∧
      writebackStage s = .next u := ⟨_, rfl, writebackStage_of_bubble h.w⟩
  obtain ⟨b, hb, memory⟩ : ∃ b, b = { u with
      turn := .memory, m := if u.m.busy then u.m else .nop, w := if u.m.busy then u.w else .nop } ∧
      memoryStage u = .next b :=
    ⟨_, rfl, memoryStage_of_held (by rw [hu]; exact h.pipe.pend.trans h₀.noPending) (by rw [hu]; exact h.held)⟩
  have be : b.e = s.e := by rw [hb, hu]
  have uw : Bubble u.w := by
    rw [hu]
    exact h.w
  have bw : Bubble b.w := by
    rw [hb]
    cases u.m.busy
    · exact .inr rfl
    · exact uw
  obtain ⟨c, hc, execute⟩ : ∃ c, c = { b with
      turn := .execute
      lu := false
      e := { b.e with stalled := false }
      m := { b.e with stalled := false }.copy } ∧ executeStage b = .next c :=
    ⟨_, rfl, executeStage_eq_finishMul (be ▸ h.free) (be ▸ h.held)⟩
  have cd : c.d = s.d := by rw [hc, hb, hu]
  obtain ⟨d, hdecoded, decode⟩ : ∃ d, d = { c with
      turn := .decode, d := { c.d with stalled := false, reason := none }, e := c.d.copy } ∧ decodeStage c = .next d :=
    ⟨_, rfl, decodeStage_of_bubble_released (cd ▸ h.d) (cd ▸ h.decodeFree) (cd ▸ h.waits) (cd ▸ h.reason) (by rw [hc])⟩
  have df : d.f = s.f := by rw [hdecoded, hc, hb, hu]
  have fetch := fetchStage_eq_catchUp (s := d) (by rw [df, hf]) (by rw [df, hf]) (by rw [hdecoded])
  have turns : PipelineOnly 0 s d := by
    constructor <;> rw [hdecoded, hc, hb, hu]
    rfl
  have back : andThen (writebackStage s) memoryStage = .next b := by rw [writeback, andThen_next, memory]
  obtain ⟨hstep, all⟩ := step_of_pipelineOnly h₀ h.pipe (cycle_of_turns back execute decode) (pipelineOnly_of_turns turns)
  have after : (fetchStage d).endCycle = { d with
      turn := .writeback
      clock := d.clock + 1
      f := Latch.fetched (.instr .empty) a
      d := Latch.fetched (.instr .empty) a } := by
    rw [fetch]
    simp [fetchCatchUp, State.endCycle, State.atTurn, df, hf, Latch.copy, Latch.fetched, Latch.empty]
  generalize (fetchStage d).endCycle = t at hstep all after
  have tm : t.m = { s.e with stalled := false }.copy := by rw [after, hdecoded, hc, be]
  have te : t.e = s.d.copy := by rw [after, hdecoded, cd]
  have inputs : SameInputs s t :=
    ⟨all.store.trans h.pipe.store.symm, all.cfg.trans h.pipe.cfg.symm⟩
  have tf : t.f = Latch.fetched (.instr .empty) a := by rw [after]
  have td : t.d = Latch.fetched (.instr .empty) a := by rw [after]
  have ahead : EmptyAhead 2 t := fun j hj => by
    rw [isRead_congr inputs, show t.pc = s.pc by rw [after, hdecoded, hc, hb, hu]]
    exact h.ahead j hj
  refine ⟨t, hstep, ⟨all, ?memory, by rw [tm]; exact h.ins, by rw [tm]; rfl, te ▸ ⟨h.d, rfl⟩, te ▸ rfl, ?w,
    ⟨td ▸ Latch.idle_fetched_empty a, td ▸ rfl, ⟨tf ▸ rfl, tf ▸ rfl, all.halted.trans h₀.notHalted⟩, ahead⟩,
    fun r => ?valid⟩, by rw [tm]; exact h.product⟩
  case memory => rw [after, hdecoded, hc, hb, hu, ← h.memory]
  case w =>
    rw [after, hdecoded, hc]
    exact bw
  case valid => rw [← h.valid, State.isValid_congr (s := s) (by rw [after, hdecoded, hc, hb, hu])]

end Sys2Proof.Machine
end

section
/-! An executed instruction's Memory turn and its retirement in a drained machine, and the two obligations
(42_execute_memory_writeback.md, 70_reset_and_hazards.md R332). -/

namespace Sys2Proof.Machine

/-- `i`, `n` cycles from `s₀`, has made its access: the value `v` is in W, the data memory is `dm`. -/
structure AtWriteback (n : Nat) (s₀ : State) (i : Instr) (v : Word) (dm : Memory) (s : State) : Prop where
  pipe : PipelineOnly n s₀ s
  memory : s.dm = dm
  ins : s.w.ins = .instr i
  free : s.w.busy = false
  value : s.w.buf = v
  m : Bubble s.m
  e : s.e.Idle
  behind : EmptyBehind 1 s
  valid : ∀ r, s.isValid r = decide (Instr.dest i ≠ some r)

/-- The Memory turn, whose access writes M and the data memory only. -/
theorem step_accesses {n : Nat} {s₀ s : State} {i : Instr} {m : Latch} {dm : Memory} (h₀ : Drained s₀)
    (h : AtMemory n s₀ i s) (hm : m.ins = .instr i)
    (access : ∀ a : State, a.m = s.m → a.dm = s.dm → a.cfg = s.cfg →
      memoryAccess (a.atTurn .memory) = .next { a.atTurn .memory with m := m, dm := dm }) :
    ∃ t, step s = .next t ∧ AtWriteback (n + 1) s₀ i m.buf dm t := by
  obtain ⟨a, ha, writeback⟩ : ∃ a, a = { s with turn := .writeback, flag := if s.w.busy then s.flag else none } ∧
      writebackStage s = .next a := ⟨_, rfl, writebackStage_of_bubble h.w⟩
  obtain ⟨b, hb, memory⟩ : ∃ b, b = { a with turn := .memory, m := m, dm := dm, w := m.copy } ∧
      memoryStage a = .next b := by
    refine ⟨_, rfl, ?_⟩
    rw [memoryStage_eq_access (ha ▸ h.free) (ha ▸ h.e.2) (access a (by rw [ha]) (by rw [ha]) (by rw [ha]))]
    have hp : a.pend = .none := by rw [ha]; exact h.pipe.pend.trans h₀.noPending
    simp [applyPending, hp, State.copyToWriteback, State.atTurn]
  have be : b.e = s.e := by rw [hb, ha]
  have bd : b.d = s.d := by rw [hb, ha]
  have bf : b.f = s.f := by rw [hb, ha]
  have bpc : b.pc = s.pc := by rw [hb, ha]
  have turns : PipelineOnly 0 s b := by
    constructor <;> rw [hb, ha]
    rfl
  have hcycle := cycle_of_back (r := .instr .empty) (by rw [writeback, andThen_next, memory]) (be ▸ h.e) (bd ▸ h.behind.d)
    ⟨bf ▸ h.behind.fetch.free, bf ▸ h.behind.fetch.flows, turns.halted.trans h.behind.fetch.notHalted⟩
    (by rw [isRead_congr turns.sameInputs, bpc, h.behind.ahead.read])
  generalize ht : ({ b with
      turn := .writeback
      clock := b.clock + 1
      lu := false
      pc := b.pc + 4
      f := Latch.fetched (.instr .empty) b.pc
      d := Latch.fetched (.instr .empty) b.pc
      e := if b.d.busy then b.e else b.d.copy
      m := if b.e.busy then b.m else b.e.copy } : State) = t at hcycle
  have rest : PipelineOnly 1 b t := by constructor <;> rw [← ht]
  have hone : PipelineOnly 1 s t := turns.trans rest
  obtain ⟨hstep, all⟩ := step_of_pipelineOnly h₀ h.pipe hcycle hone
  have tw : t.w = m.copy := by rw [← ht, hb]
  have te : t.e = s.d.copy := by
    rw [← ht]
    simp only [bd, h.behind.free, Bool.false_eq_true, if_false]
  have tm : t.m = s.e.copy := by
    rw [← ht]
    simp only [be, h.executeFree, Bool.false_eq_true, if_false]
  refine ⟨t, hstep, all, by rw [← ht, hb], tw ▸ hm, tw ▸ rfl, tw ▸ rfl, tm ▸ h.e.1, te ▸ h.behind.d.copy, ?behind,
    fun r => ?valid⟩
  case behind =>
    exact h.behind.next (a := b.pc) hone.sameInputs hone.halted (by rw [← ht, bpc]) (by rw [← ht]) (by rw [← ht])
  case valid => rw [← h.valid, State.isValid_congr (s := s) (by rw [← ht, hb, ha])]

/-- The retirement of a counted instruction: the value goes to its destination, which is valid again, and to FLAG. -/
theorem step_retires {n : Nat} {s₀ s : State} {i : Instr} {v : Word} {dm : Memory} (h₀ : Drained s₀)
    (h : AtWriteback n s₀ i v dm s) (counted : ¬(i = .nop ∨ i = .empty)) :
    ∃ t, step s = .next t ∧ (∀ r, t.reg r = if Instr.dest i = some r then v else s₀.reg r) ∧
      (∀ r, t.isValid r = true) ∧ t.flag = (Instr.flagDest i).map (fun _ => v) ∧ t.done = s₀.done + 1 ∧ t.dm = dm ∧
      t.clock = s₀.clock + (n + 1) := by
  obtain ⟨a, ha, writeback⟩ : ∃ a, a = retire i (s.atTurn .writeback) ∧ writebackStage s = .next a := by
    refine ⟨_, rfl, ?_⟩
    rw [writebackStage_eq, if_neg (by simp [h.free]), h.ins]
  have frame := writebackStage_frame writeback
  obtain ⟨b, hb, memory⟩ : ∃ b, b = { a with turn := .memory, w := if a.m.busy then a.w else a.m.copy } ∧
      memoryStage a = .next b :=
    ⟨_, rfl, memoryStage_of_noAccess (by rw [frame]; exact h.m.noAccess)
      (by rw [frame]; exact h.pipe.pend.trans h₀.noPending) (by rw [frame]; exact h.e.2)⟩
  have be : b.e = s.e := by rw [hb, frame]
  have bd : b.d = s.d := by rw [hb, frame]
  have bf : b.f = s.f := by rw [hb, frame]
  have inputs : SameInputs s b := ⟨by rw [hb, frame], by rw [hb, frame]⟩
  have hcycle := cycle_of_back (r := .instr .empty) (by rw [writeback, andThen_next, memory]) (be ▸ h.e) (bd ▸ h.behind.d)
    ⟨bf ▸ h.behind.fetch.free, bf ▸ h.behind.fetch.flows, by rw [hb, frame]; exact h.behind.fetch.notHalted⟩
    (by rw [isRead_congr inputs, show b.pc = s.pc by rw [hb, frame], h.behind.ahead.read])
  have budget : budgetSpent s = false := budgetSpent_of_unbounded (h.pipe.cfg ▸ h₀.unbounded)
  refine ⟨_, step_eq_checkComplete (h.pipe.stop.trans h₀.running) budget hcycle, fun r => ?reg, fun r => ?valid, ?flag,
    ?done, ?dm, ?clock⟩
  case reg =>
    rw [State.reg_congr (State.checkComplete_x _), State.reg_congr (s := a) (by rw [hb]), ha, retire_reg,
      ← State.reg_congr h.pipe.x, ← h.value]
    rfl
  case valid =>
    rw [State.isValid_congr (State.checkComplete_valid _), State.isValid_congr (s := a) (by rw [hb]), ha, retire_isValid]
    by_cases hr : Instr.dest i = some r
    · exact if_pos ⟨hr, by rw [State.atTurn_e, h.e.1.dest]; nofun⟩
    · rw [if_neg fun hd => hr hd.1]
      exact (h.valid r).trans (decide_eq_true hr)
  case flag => rw [State.checkComplete_flag, hb, ha, retire_flag, ← h.value]; rfl
  case done => rw [State.checkComplete_done, hb, ha, retire_done, if_neg counted, ← h.pipe.done]; rfl
  case dm => rw [State.checkComplete_dm, hb, frame, h.memory]
  case clock => rw [State.checkComplete_clock, hb, frame, h.pipe.clock, Nat.add_assoc]

/-! ### The obligations -/

/-- What Execute leaves in E.buf on the operands of the register file. -/
theorem run_e_buf_of_aluValue {i : Instr} {v : Word} {reg : Reg → Word} {s : State} (hv : aluValue reg i = some v)
    (hops : ∀ slot r, (slot, r) ∈ Instr.sources i → s.e.operand slot = reg r) : (run i s).e.buf = v := by
  have operands {rs1 rs2 : Reg} (h : Instr.sources i = [(.rs1, rs1), (.rs2, rs2)]) : s.e.v1 = reg rs1 ∧ s.e.v2 = reg rs2 :=
    ⟨hops .rs1 rs1 (by simp [h]), hops .rs2 rs2 (by simp [h])⟩
  cases i
  case add | sub | mul | and | or | xor =>
    obtain ⟨h1, h2⟩ := operands rfl
    rw [← Option.some.inj hv, ← h1, ← h2]
    rfl
  case movc => exact Option.some.inj hv
  all_goals cases hv

theorem isBranch_eq_false_of_dest {i : Instr} {rd : Reg} (h : Instr.dest i = some rd) : Instr.isBranch i = false := by
  cases i
  case bz => cases h
  case bnz => cases h
  all_goals rfl

theorem counted_of_dest {i : Instr} {rd : Reg} (h : Instr.dest i = some rd) : ¬(i = .nop ∨ i = .empty) := by
  rintro (rfl | rfl) <;> cases h

/-- An ALU instruction or a MOVC reaches M with its result, a MUL one cycle later than the others. -/
theorem steps_reach_memory {i : Instr} {rd : Reg} {v : Word} {s : State} (h₀ : Drained s) (hl : LastIs s i)
    (hb : s.pc.toNat + 32 < 2 ^ 32) (hd : Instr.dest i = some rd) (hv : aluValue s.reg i = some v) :
    ∃ n t, cyclesAlone i = n + 2 ∧ steps n s = .next t ∧ AtMemory n s i t ∧ t.m.buf = v := by
  have hbr := isBranch_eq_false_of_dest hd
  by_cases hmul : ∃ rd rs1 rs2, i = .mul rd rs1 rs2
  · obtain ⟨rd, rs1, rs2, rfl⟩ := hmul
    obtain ⟨a, ha, executing, behind⟩ := steps_two_dispatches_last h₀ hl hb hbr
    obtain ⟨b, hb, held⟩ := step_holds h₀ executing behind
    obtain ⟨t, ht, inMemory, hbuf⟩ := step_finishes h₀ held
    refine ⟨4, t, rfl, ?_, inMemory, hbuf.trans (Option.some.inj hv)⟩
    rw [show 4 = 2 + 2 from rfl, steps_add, ha, andThen_next, steps_succ hb, steps_one ht]
  · simp only [not_exists] at hmul
    obtain ⟨b, t, ht, inMemory, -, -, hops, hm⟩ := steps_three_executes h₀ hl hb (.inl ⟨rd, hd⟩) hbr hmul
    refine ⟨3, t, ?cycles, ht, inMemory, ?value⟩
    case cycles =>
      cases i
      case mul rd rs1 rs2 => exact absurd rfl (hmul rd rs1 rs2)
      all_goals rfl
    case value =>
      rw [hm, Latch.copy_buf]
      exact run_e_buf_of_aluValue hv hops

/-- Settles O57: with no access to make, two more cycles retire what `steps_reach_memory` brings into M. -/
theorem aluInstructionRunsAlone : Obligations.AluInstructionRunsAlone := by
  intro i rd v s h₀ hl hb hd hv
  obtain ⟨n, a, hn, ha, inMemory, hbuf⟩ := steps_reach_memory h₀ hl hb hd hv
  have noAccess : a.m.NoAccess := by
    constructor <;> rintro _ _ _ h <;> rw [inMemory.ins] at h <;> cases h <;> cases hv
  obtain ⟨b, hb, inWriteback⟩ := step_accesses h₀ inMemory (m := a.m) (dm := a.dm) inMemory.ins fun c hm hdm _ => by
    rw [memoryAccess_of_noAccess (hm ▸ noAccess), ← hm, ← hdm]
    rfl
  obtain ⟨t, ht, hreg, hvalid, hflag, hdone, hdm, hclock⟩ := step_retires h₀ inWriteback (counted_of_dest hd)
  rw [hbuf] at hreg hflag
  refine ⟨t, ?steps, by rw [hreg, if_pos hd], fun q hq => ?other, hvalid, ?flag, hdone,
    State.word_congr (hdm.trans inMemory.memory), by rw [hclock, hn]⟩
  case steps => rw [hn, steps_add, ha, andThen_next, steps_succ hb, steps_one ht]
  case other => rw [hreg, if_neg (by rw [hd]; exact fun h => hq (Option.some.inj h).symm)]
  case flag =>
    rw [hflag]
    cases Instr.flagDest i <;> rfl

theorem load_runs_alone {rd rs1 : Reg} {imm : Word} {s : State} (h₀ : Drained s) (hl : LastIs s (.load rd rs1 imm))
    (hb : s.pc.toNat + 32 < 2 ^ 32) {k : Nat} (hk : dmIndex s.cfg (s.reg rs1 + imm) = some k) :
    ∃ t, steps 5 s = .next t ∧ t.reg rd = s.word k ∧ SameRegsBut rd s t ∧ SameWords s t ∧ t.flag = none ∧
      t.done = s.done + 1 := by
  obtain ⟨b, a, ha, inMemory, -, -, hops, hm⟩ := steps_three_executes h₀ hl hb (.inl ⟨rd, rfl⟩) rfl nofun
  have address : a.m.addr = s.reg rs1 + imm := by
    rw [hm, ← hops .rs1 rs1 (by simp [Instr.sources])]
    rfl
  obtain ⟨c, hc, inWriteback⟩ := step_accesses h₀ inMemory (m := { a.m with buf := s.word k }) (dm := a.dm) inMemory.ins
    fun u hum hudm hucfg => by
      have index : dmIndex u.cfg u.m.addr = some k := by rw [hucfg, inMemory.pipe.cfg, hum, address, hk]
      rw [memoryAccess_of_load (hum ▸ inMemory.ins) index, State.word_congr (hudm.trans inMemory.memory), ← hum, ← hudm]
      rfl
  obtain ⟨t, ht, hreg, -, hflag, hdone, hdm, -⟩ := step_retires h₀ inWriteback (by simp)
  refine ⟨t, ?steps, (hreg rd).trans (if_pos rfl), fun q hq => ?other, State.word_congr (hdm.trans inMemory.memory), hflag,
    hdone⟩
  case steps => rw [show 5 = 3 + 2 from rfl, steps_add, ha, andThen_next, steps_succ hc, steps_one ht]
  case other => exact (hreg q).trans (if_neg fun h => hq (Option.some.inj h).symm)

theorem store_runs_alone {rs1 rs2 : Reg} {imm : Word} {s : State} (h₀ : Drained s) (hmem : MemoryLegal s)
    (hl : LastIs s (.store rs1 rs2 imm)) (hb : s.pc.toNat + 32 < 2 ^ 32) {k : Nat}
    (hk : dmIndex s.cfg (s.reg rs2 + imm) = some k) :
    ∃ t, steps 5 s = .next t ∧ t.word k = s.reg rs1 ∧ SameWordsBut k s t ∧ SameRegs s t ∧ t.flag = none ∧
      t.done = s.done + 1 := by
  obtain ⟨b, a, ha, inMemory, hbm, hbw, hops, hm⟩ := steps_three_executes h₀ hl hb (.inr ⟨rs1, rs2, imm, rfl⟩) rfl nofun
  have address : a.m.addr = s.reg rs2 + imm := by
    rw [hm, ← hops .rs2 rs2 (by simp [Instr.sources])]
    rfl
  have data : a.m.v1 = s.reg rs1 := by
    have resolved : storeData rs1 b = b.e.v1 := by simp [storeData_eq, hbm, hbw]
    rw [hm, ← hops .rs1 rs1 (by simp [Instr.sources])]
    exact resolved
  obtain ⟨c, hc, inWriteback⟩ := step_accesses h₀ inMemory (m := a.m) (dm := (s.setWord k (s.reg rs1)).dm) inMemory.ins
    fun u hum hudm hucfg => by
      have index : dmIndex u.cfg u.m.addr = some k := by rw [hucfg, inMemory.pipe.cfg, hum, address, hk]
      rw [memoryAccess_of_store (hum ▸ inMemory.ins) index, hum, data, ← hum, State.setWord_dm, ← inMemory.memory, ← hudm]
      rfl
  obtain ⟨t, ht, hreg, -, hflag, hdone, hdm, -⟩ := step_retires h₀ inWriteback (by simp)
  have word (j : Nat) : t.word j = (s.setWord k (s.reg rs1)).word j := State.word_congr hdm j
  refine ⟨t, ?steps, (word k).trans (State.word_setWord_same k _ hmem.1), fun j hj =>
    (word j).trans (State.word_setWord_ne s _ hj), hreg, hflag, hdone⟩
  case steps => rw [show 5 = 3 + 2 from rfl, steps_add, ha, andThen_next, steps_succ hc, steps_one ht]

/-- Settles O58: the LOAD's access reads into M.buf, which retires; the STORE's writes the data of R242, no latch ahead of
it having a destination. -/
theorem loadStoreRunsAlone : Obligations.LoadStoreRunsAlone := by
  intro rd a b imm s h₀ hmem hb
  exact ⟨fun hl h0 h1 => load_runs_alone h₀ hl hb (dmIndex_some h0 h1),
    fun hl h0 h1 => store_runs_alone h₀ hmem hl hb (dmIndex_some h0 h1)⟩

end Sys2Proof.Machine
end
